-- ==== Sys2Proof/Word.lean ====
section
/-! DEFINITION. Word: the byte of the two streams (spec/00_scope.md R6), and the unit of N bytes the codec writes and
reads (spec/30_encoding.md R60), one constructor per unit width, so that a unit never has another length. -/

namespace Sys2Proof

/-- A byte: 8 bits, bit 0 least significant (R6). -/
abbrev Byte := BitVec 8

/-- An encoded unit in the order it travels, u0 first (spec/20_memory.md R46): 3 bytes for STD (format STD3, R61),
4 bytes for EXT (format EXT4, R62). -/
inductive CodeUnit where
  | std (u0 u1 u2 : Byte)
  | ext (u0 u1 u2 u3 : Byte)
  deriving DecidableEq, Repr

end Sys2Proof
end

