-- ==== Sys2Proof/Config.lean ====
section
/-! DEFINITION. Config: the block's parameters (spec/00_scope.md R5). All are fixed per session and none is chosen by an
implementation, so this file holds no free value: the spec leaves no value an operation produces open. -/

namespace Sys2Proof

/-- VARIANT (R5, spec/10_state.md R13): the unit layout. -/
inductive Variant where
  | std   -- 0: Standard, N = 3
  | ext   -- 1: Extended, N = 4
  deriving DecidableEq, Repr

/-- DIR (R5, spec/10_state.md R14): the direction of a session. -/
inductive Dir where
  | enc   -- 0: the source's encrypt
  | dec   -- 1: the source's decrypt
  deriving DecidableEq, Repr

/-- N, the unit width in bytes (R5, spec/30_encoding.md R67). -/
def Variant.width : Variant → Nat
  | .std => 3
  | .ext => 4

end Sys2Proof
end

