-- ==== Sys2Proof/Syntax.lean ====
section
/-! DEFINITION. Syntax: the operations of spec/opcode_table.json, one constructor per row. An operand that the spec calls
ignored (spec/30_encoding.md R68, R69, R71 a) is kept as an operand, so that no bit of a word is lost in decoding; no
meaning reads it (log entry 11). -/

namespace Sys2Proof

/-- One constructor per row of spec/opcode_table.json, in the table's order. -/
inductive Instr where
  /-- ENC_STD_PAIR (R82): encode two bytes as a Standard unit. -/
  | encStdPair (b0 b1 : Byte)
  /-- ENC_STD_SINGLE (R83): encode one trailing byte as a Standard unit. -/
  | encStdSingle (b0 : Byte)
  /-- ENC_EXT_PAIR (R84): encode two bytes as an Extended unit. -/
  | encExtPair (b0 b1 : Byte)
  /-- ENC_EXT_SINGLE (R85): encode one trailing byte as an Extended unit. -/
  | encExtSingle (b0 : Byte)
  /-- DEC_STD_PAIR (R88): decode a Standard unit whose flag is clear. -/
  | decStdPair (u0 u1 u2 : Byte)
  /-- DEC_STD_SINGLE (R89): decode a Standard unit whose flag is set. -/
  | decStdSingle (u0 u1 u2 : Byte)
  /-- DEC_EXT_PAIR (R90): decode an Extended unit whose flag is clear. -/
  | decExtPair (u0 u1 u2 u3 : Byte)
  /-- DEC_EXT_SINGLE (R91): decode an Extended unit whose flag is set. -/
  | decExtSingle (u0 u1 u2 u3 : Byte)
  /-- PUSH_ENC_FIRST (R102): the first byte of a pair. -/
  | pushEncFirst (b : Byte)
  /-- PUSH_ENC_SECOND (R103): the second byte of a pair. -/
  | pushEncSecond (b : Byte)
  /-- EOS_ENC (R104): end of stream on encode; bits 7:0 of the IN word are ignored (R68). -/
  | eosEnc (ignored : Byte)
  /-- PUSH_DEC_PARTIAL (R105): a byte inside a unit. -/
  | pushDecPartial (b : Byte)
  /-- PUSH_DEC_LAST (R106): the last byte of a unit. -/
  | pushDecLast (b : Byte)
  /-- EOS_DEC (R107): end of stream on decode; bits 7:0 of the IN word are ignored (R68). -/
  | eosDec (ignored : Byte)
  /-- POP (R108): the consumer takes out_data. -/
  | pop
  /-- RESET (R121); bits 2:0 of the CTRL word are ignored (R69). -/
  | reset (ignored : BitVec 3)
  /-- START v, d (R120). -/
  | start (v : Variant) (d : Dir)
  /-- NOP (R124); bits 1:0 of the CTRL word are ignored (R69). -/
  | nop (ignored : BitVec 2)
  /-- STATUS_READ (R123). -/
  | statusRead
  deriving DecidableEq, Repr

end Sys2Proof
end

