-- ==== Sys2Proof/WellFormed.lean ====
section
/-! DEFINITION. WellFormed: which terms of Instr the table's rows admit. An encode row's word carries 7 bits of each input
byte, so its operand has bit 7 clear (spec/40_codec.md R80: "each byte must have its high bit (bit 7) clear"); what the
datapath does with bit 7 set is R86 and is modelled for every operand. A decode row is selected by the flag F of its
unit (R88 to R91). Every other operand value is admitted (spec/30_encoding.md R68, R69). -/

namespace Sys2Proof

/-- A 7-bit value on the 8-bit port (R5 "8 bits on the port, 7 significant", R80). -/
def Byte.sevenBit (b : Byte) : Bool := !b.getLsbD 7

/-- The single-character flag F: bit 2 of the lead byte L (R61, R62; R9 "Single-character flag"). -/
def Byte.flagBit (lead : Byte) : Bool := lead.getLsbD 2

/-- The operand checks of the table's rows. -/
def Instr.wellFormed : Instr → Bool
  | .encStdPair b0 b1 => Byte.sevenBit b0 && Byte.sevenBit b1
  | .encStdSingle b0 => Byte.sevenBit b0
  | .encExtPair b0 b1 => Byte.sevenBit b0 && Byte.sevenBit b1
  | .encExtSingle b0 => Byte.sevenBit b0
  | .decStdPair u0 _ _ => !Byte.flagBit u0
  | .decStdSingle u0 _ _ => Byte.flagBit u0
  | .decExtPair _ u1 _ _ => !Byte.flagBit u1
  | .decExtSingle _ u1 _ _ => Byte.flagBit u1
  | .pushEncFirst _ => true
  | .pushEncSecond _ => true
  | .eosEnc _ => true
  | .pushDecPartial _ => true
  | .pushDecLast _ => true
  | .eosDec _ => true
  | .pop => true
  | .reset _ => true
  | .start _ _ => true
  | .nop _ => true
  | .statusRead => true

end Sys2Proof
end

