-- ==== Sys2Proof/Decode.lean ====
section
/-! DEFINITION. Decode: the words of spec/30_encoding.md (unit formats R61 to R63, IN word R68, CTRL word R69, OUT R70) to the
operations they stand for, total on any word, refusing by name; after it the encoder of a well-formed operation. One
word can stand for several rows of the table: the row is then chosen by CFG.VARIANT, CFG.DIR, HOLD_V and ACC_CNT
(R72, R100; the table's "select" and "when" columns), which the selector carries. -/

namespace Sys2Proof

/-- What the host hands the block, in its format (R60): a unit of bytes for the datapath, u0 first, a 9-bit IN word, a
4-bit CTRL word, or one of the two that have no word (R73): the OUT transfer and the STATUS read. -/
inductive HostWord where
  | unit (u : List Byte)
  | inp (w : BitVec 9)
  | ctrl (w : BitVec 4)
  | out
  | status
  deriving DecidableEq, Repr

/-- The engine's elements that select a row among those of one word (R72, R100). -/
structure Selector where
  variant : Variant
  dir : Dir
  holdV : Bool
  accCnt : BitVec 2
  deriving DecidableEq, Repr

/-- Why a word is no row of the table. -/
inductive Reject where
  /-- A unit that has not N bytes (R67). -/
  | unitLength
  /-- In the encode direction, a unit outside the four forms of R63: no encode row has it as its output. -/
  | unitForm
  /-- A data byte in a decode session whose ACC_CNT is above N-1, which R17 excludes: neither R105 nor R106 is enabled. -/
  | accCount
  deriving DecidableEq, Repr

/-! ### Bit fields -/

/-- `b[i]`, one bit (R6). -/
def bitAt (b : Byte) (i : Nat) : BitVec 1 := b.extractLsb' i 1

/-- The source's low6: bits 5:0 (R97). -/
def low6 (b : Byte) : BitVec 6 := b.extractLsb' 0 6

/-- The continuation pattern: bits 7:6 are 10 (R61, R62). -/
def isContinuation (b : Byte) : Bool := b.extractLsb' 6 2 == 0b10#2

/-- A continuation byte carrying 6 payload bits (R61, R62). -/
def continuation (d : BitVec 6) : Byte := 0b10#2 ++ d

/-- One 7-bit lane as a byte: bit 7 is 0 (R64 decode, R98). -/
def lane (high : BitVec 1) (low : BitVec 6) : Byte := 0b0#1 ++ high ++ low

/-- CFG.VARIANT from its bit (R13). -/
def Variant.ofBit (b : BitVec 1) : Variant := if b = 1#1 then .ext else .std

/-- CFG.VARIANT's bit (R13). -/
def Variant.toBit : Variant → BitVec 1
  | .std => 0#1
  | .ext => 1#1

/-- CFG.DIR from its bit (R14). -/
def Dir.ofBit (b : BitVec 1) : Dir := if b = 1#1 then .dec else .enc

/-- CFG.DIR's bit (R14). -/
def Dir.toBit : Dir → BitVec 1
  | .enc => 0#1
  | .dec => 1#1

/-! ### Decoding -/

/-- A Standard unit as the output of an encode row: STD_PAIR or STD_SINGLE of R63, fields of R61. -/
def decodeEncStd (u0 u1 u2 : Byte) : Except Reject Instr :=
  if u0.extractLsb' 2 6 = 0b111000#6 ∧ isContinuation u1 ∧ isContinuation u2 then
    .ok (.encStdPair (lane (bitAt u0 1) (low6 u1)) (lane (bitAt u0 0) (low6 u2)))
  else if u0.extractLsb' 1 7 = 0b1110010#7 ∧ isContinuation u1 ∧ u2 = 0x80#8 then
    .ok (.encStdSingle (lane (bitAt u0 0) (low6 u1)))
  else .error .unitForm

/-- An Extended unit as the output of an encode row: EXT_PAIR or EXT_SINGLE of R63, fields of R62. -/
def decodeEncExt (u0 u1 u2 u3 : Byte) : Except Reject Instr :=
  if u0 = 0xF0#8 ∧ u1.extractLsb' 2 6 = 0b100100#6 ∧ isContinuation u2 ∧ isContinuation u3 then
    .ok (.encExtPair (lane (bitAt u1 1) (low6 u2)) (lane (bitAt u1 0) (low6 u3)))
  else if u0 = 0xF0#8 ∧ u1.extractLsb' 1 7 = 0b1001010#7 ∧ isContinuation u2 ∧ u3 = 0x80#8 then
    .ok (.encExtSingle (lane (bitAt u1 0) (low6 u2)))
  else .error .unitForm

/-- A unit as the input of a decode row: W[18], the flag F, alone chooses it (R72, R87). -/
def decodeDecStd (u0 u1 u2 : Byte) : Instr :=
  if Byte.flagBit u0 then .decStdSingle u0 u1 u2 else .decStdPair u0 u1 u2

/-- As `decodeDecStd`, for an Extended unit, whose lead byte is u1 (R62, R87). -/
def decodeDecExt (u0 u1 u2 u3 : Byte) : Instr :=
  if Byte.flagBit u1 then .decExtSingle u0 u1 u2 u3 else .decExtPair u0 u1 u2 u3

/-- A unit of bytes in a session of variant `v` and direction `d`; its length must be N (R67). -/
def decodeUnit (v : Variant) (d : Dir) (u : List Byte) : Except Reject Instr :=
  match v, d, u with
  | .std, .enc, [u0, u1, u2] => decodeEncStd u0 u1 u2
  | .std, .dec, [u0, u1, u2] => .ok (decodeDecStd u0 u1 u2)
  | .ext, .enc, [u0, u1, u2, u3] => decodeEncExt u0 u1 u2 u3
  | .ext, .dec, [u0, u1, u2, u3] => .ok (decodeDecExt u0 u1 u2 u3)
  | _, _, _ => .error .unitLength

/-- A data byte: the row by DIR, then by HOLD_V (R102, R103) or by ACC_CNT against N-1 (R105, R106). -/
def decodePush (c : Selector) (b : Byte) : Except Reject Instr :=
  match c.dir with
  | .enc => .ok (if c.holdV then .pushEncSecond b else .pushEncFirst b)
  | .dec =>
    if c.accCnt.toNat + 1 < c.variant.width then .ok (.pushDecPartial b)
    else if c.accCnt.toNat + 1 = c.variant.width then .ok (.pushDecLast b)
    else .error .accCount

/-- End of stream: the row by DIR (R104, R107). -/
def decodeEos (c : Selector) (ignored : Byte) : Instr :=
  match c.dir with
  | .enc => .eosEnc ignored
  | .dec => .eosDec ignored

/-- An IN word, in_eos in bit 8 and in_data in bits 7:0 (R68). -/
def decodeIn (c : Selector) (w : BitVec 9) : Except Reject Instr :=
  if w.getLsbD 8 then .ok (decodeEos c (w.extractLsb' 0 8)) else decodePush c (w.extractLsb' 0 8)

/-- A CTRL word, rst start cfg_dir cfg_variant from bit 3 down (R69). -/
def decodeCtrl (w : BitVec 4) : Instr :=
  if w.getLsbD 3 then .reset (w.extractLsb' 0 3)
  else if w.getLsbD 2 then .start (Variant.ofBit (w.extractLsb' 0 1)) (Dir.ofBit (w.extractLsb' 1 1))
  else .nop (w.extractLsb' 0 2)

/-- The operation a word stands for where the engine's selecting elements are `c`. -/
def decode (c : Selector) (w : HostWord) : Except Reject Instr :=
  match w with
  | .unit u => decodeUnit c.variant c.dir u
  | .inp i => decodeIn c i
  | .ctrl k => .ok (decodeCtrl k)
  | .out => .ok .pop
  | .status => .ok .statusRead

/-! ### Encoding -/

/-- The word of an operation, written from the layout tables R61, R62 (fields by form: R63), R68, R69 and R70. -/
def encode : Instr → HostWord
  | .encStdPair b0 b1 =>
    .unit [0b111000#6 ++ bitAt b0 6 ++ bitAt b1 6, continuation (low6 b0), continuation (low6 b1)]
  | .encStdSingle b0 => .unit [0b1110010#7 ++ bitAt b0 6, continuation (low6 b0), 0x80#8]
  | .encExtPair b0 b1 =>
    .unit [0xF0#8, 0b100100#6 ++ bitAt b0 6 ++ bitAt b1 6, continuation (low6 b0), continuation (low6 b1)]
  | .encExtSingle b0 => .unit [0xF0#8, 0b1001010#7 ++ bitAt b0 6, continuation (low6 b0), 0x80#8]
  | .decStdPair u0 u1 u2 => .unit [u0, u1, u2]
  | .decStdSingle u0 u1 u2 => .unit [u0, u1, u2]
  | .decExtPair u0 u1 u2 u3 => .unit [u0, u1, u2, u3]
  | .decExtSingle u0 u1 u2 u3 => .unit [u0, u1, u2, u3]
  | .pushEncFirst b => .inp (0b0#1 ++ b)
  | .pushEncSecond b => .inp (0b0#1 ++ b)
  | .eosEnc x => .inp (0b1#1 ++ x)
  | .pushDecPartial b => .inp (0b0#1 ++ b)
  | .pushDecLast b => .inp (0b0#1 ++ b)
  | .eosDec x => .inp (0b1#1 ++ x)
  | .pop => .out
  | .reset x => .ctrl (0b1#1 ++ x)
  | .start v d => .ctrl (0b01#2 ++ d.toBit ++ v.toBit)
  | .nop x => .ctrl (0b00#2 ++ x)
  | .statusRead => .status

/-- The selectors under which a row of the table is the one its word stands for: the "select" and "when" columns, in
so far as they choose between rows of one word. -/
def Selector.admits (c : Selector) : Instr → Bool
  | .encStdPair _ _ => c.variant == .std && c.dir == .enc
  | .encStdSingle _ => c.variant == .std && c.dir == .enc
  | .encExtPair _ _ => c.variant == .ext && c.dir == .enc
  | .encExtSingle _ => c.variant == .ext && c.dir == .enc
  | .decStdPair _ _ _ => c.variant == .std && c.dir == .dec
  | .decStdSingle _ _ _ => c.variant == .std && c.dir == .dec
  | .decExtPair _ _ _ _ => c.variant == .ext && c.dir == .dec
  | .decExtSingle _ _ _ _ => c.variant == .ext && c.dir == .dec
  | .pushEncFirst _ => c.dir == .enc && !c.holdV
  | .pushEncSecond _ => c.dir == .enc && c.holdV
  | .eosEnc _ => c.dir == .enc
  | .pushDecPartial _ => c.dir == .dec && c.accCnt.toNat + 1 < c.variant.width
  | .pushDecLast _ => c.dir == .dec && c.accCnt.toNat + 1 == c.variant.width
  | .eosDec _ => c.dir == .dec
  | .pop => true
  | .reset _ => true
  | .start _ _ => true
  | .nop _ => true
  | .statusRead => true

/-! ### The table's words -/

/-- The word of `nbits` bits that the number `w` writes. A unit's word view has u0 in its most significant byte (R46), so
u0, which travels first, is cut from the top. An IN word has 9 bits and a CTRL word 4 (R68, R69); in whole bytes,
2 and 1. POP's word has 0 bits (R60). A number with a bit above its word is none. -/
def HostWord.ofTable (nbits w : Nat) : Option HostWord :=
  match nbits with
  | 0 => if w = 0 then some .out else none
  | 4 | 8 => if w < 16 then some (.ctrl (BitVec.ofNat 4 w)) else none
  | 9 | 16 => if w < 512 then some (.inp (BitVec.ofNat 9 w)) else none
  | 24 =>
    if w < 16777216 then
      some (.unit [BitVec.ofNat 8 (w / 65536), BitVec.ofNat 8 (w / 256), BitVec.ofNat 8 w])
    else none
  | 32 =>
    if w < 4294967296 then
      some (.unit [BitVec.ofNat 8 (w / 16777216), BitVec.ofNat 8 (w / 65536), BitVec.ofNat 8 (w / 256),
        BitVec.ofNat 8 w])
    else none
  | _ => none

/-- Selectors in the order of the table's rows: the encode direction first, no byte held, no byte accumulated. A word
of the table alone does not say its row (R72); the first of these that has one decides (log entry 7). -/
def tableSelectors : List Selector :=
  [⟨.std, .enc, false, 0#2⟩, ⟨.ext, .enc, false, 0#2⟩, ⟨.std, .dec, false, 0#2⟩, ⟨.ext, .dec, false, 0#2⟩]

/-- The operation read from a word of the table, numbered as the table numbers it. -/
def decodeTableWord (nbits w : Nat) : Option Instr :=
  match HostWord.ofTable nbits w with
  | none => none
  | some hw => tableSelectors.findSome? fun c => (decode c hw).toOption

end Sys2Proof
end

