-- ==== Sys2Proof/Machine/State.lean ====
section
/-! DEFINITION. State: the engine's complete state as spec/10_state.md R10 lists it, and beside it, kept apart, the model's
own record of what the host does at the block's ports and has received from them (log entries 1 and 2). -/

namespace Sys2Proof.Machine

/-- PHASE (R15): all four values are used. -/
inductive Phase where
  | idle   -- 0: after reset, no session
  | run    -- 1: session accepting input
  | done   -- 2: end-of-stream accepted, no error
  | err    -- 3: session ended by TruncatedCharacter
  deriving DecidableEq, Repr

/-- ACC[0..2], the bytes of a partial unit in arrival order (R17). -/
structure Acc where
  a0 : Byte
  a1 : Byte
  a2 : Byte
  deriving DecidableEq, Repr

/-- The engine's complete state (R10): "Nothing else is state"; no memory, no pc, no register (R11, R12, R40; log entry 14). -/
structure Engine where
  /-- CFG.VARIANT (R13). -/
  variant : Variant
  /-- CFG.DIR (R14). -/
  dir : Dir
  /-- PHASE (R15). -/
  phase : Phase
  /-- HOLD_V: the pair grouper holds the first byte of a pair (R16). -/
  holdV : Bool
  /-- HOLD: bits 6:0 of the held byte (R16). -/
  hold : BitVec 7
  /-- ACC (R17). -/
  acc : Acc
  /-- ACC_CNT: bytes of the current unit received so far (R17). -/
  accCnt : BitVec 2
  /-- OBUF: output bytes not yet taken, oldest first; its bound is an invariant (R18, R21; log entry 13). -/
  obuf : List Byte
  /-- ERR_K: bytes found in the truncated unit (R19). -/
  errK : BitVec 2
  deriving DecidableEq, Repr

/-- What the host drives on the input ports at one step (spec/20_memory.md R41). -/
structure PortIn where
  rst : Bool
  start : Bool
  cfgVariant : BitVec 1
  cfgDir : BitVec 1
  inValid : Bool
  inEos : Bool
  inData : Byte
  outReady : Bool
  deriving DecidableEq, Repr

/-- What the host does at one step: drives the ports (R42), reads STATUS (R123: not a transfer; log entry 18), or runs
the codec datapath by itself on a unit (R80 to R99; log entry 6). -/
inductive Stimulus where
  | ports (p : PortIn)
  | statusRead
  | unit (u : List Byte)
  deriving DecidableEq, Repr

/-- The model's own fields. No rule gives them to the machine, and no engine element ever depends on one. -/
structure Env where
  /-- The host's stimuli of the steps to come, next first (R25: "parameters of the step relation"). -/
  pending : List Stimulus
  /-- Every byte the consumer has taken, oldest first; it stands outside the block, so nothing removes one (R155). -/
  sink : List Byte
  /-- The data bytes accepted since the last START (R16, R17, R112). -/
  accepted : List Byte
  /-- The bytes popped since the last START: the output of R113. -/
  output : List Byte
  /-- What each codec operation run on its own returned, oldest first (R80). -/
  results : List (List Byte)
  /-- The words STATUS reads have returned, oldest first (R123). -/
  statusSeen : List (BitVec 16)
  deriving DecidableEq, Repr

/-- The machine: the engine of R10 and the model's record of its environment. -/
structure State where
  eng : Engine
  env : Env
  deriving DecidableEq, Repr

/-- Why the machine stops. The block has no trap: its one error is a state (spec/60_exceptions.md R131). -/
inductive Fault where
  /-- Raised by the step, never by a meaning: a data byte is accepted (in_ready = 1) in a decode session whose ACC_CNT is
  above N-1. R17 says no such state is reached and no rule gives it a step. Safe: the model stops where the spec is
  silent (log entry 5). -/
  | accCountBeyondUnit
  deriving DecidableEq, Repr

/-- Why a stimulus has no meaning. -/
inductive Refusal where
  /-- Raised by an arm of `exec` whose instruction has no meaning yet; no arm raises it. Safe. -/
  | notModelled (mnemonic : String)
  /-- Raised by the step, never by a meaning: the stimulus hands the datapath a unit that has not N bytes (R67), which
  no session presents. Safe (log entry 17). -/
  | unitLength
  /-- Raised by the step, never by a meaning: the stimulus names an encode operation by a unit outside the forms of R63, which no
  encode operation returns. Safe (log entry 17). -/
  | unitForm
  deriving DecidableEq, Repr

/-- The reset values of R23. -/
def Engine.reset : Engine where
  variant := .std
  dir := .enc
  phase := .idle
  holdV := false
  hold := 0#7
  acc := ⟨0#8, 0#8, 0#8⟩
  accCnt := 0#2
  obuf := []
  errK := 0#2

/-- The machine right after RESET (R23, R150): nothing pending, nothing recorded (log entries 1 and 2). -/
def State.reset : State where
  eng := Engine.reset
  env := { pending := [], sink := [], accepted := [], output := [], results := [], statusSeen := [] }

end Sys2Proof.Machine
end

