-- ==== Sys2Proof/Machine/Flags.lean ====
section
/-! DEFINITION. Flags: the block has no condition codes (spec/10_state.md R22); its flags are the fields of the STATUS view
(R20, R123), the handshake outputs in_ready and out_valid (spec/20_memory.md R43, R44), and the conditions under which an event is
enabled (spec/41_stream.md R101). -/

namespace Sys2Proof.Machine

/-- PHASE's encoding (R15). -/
def Phase.toBits : Phase → BitVec 2
  | .idle => 0#2
  | .run => 1#2
  | .done => 2#2
  | .err => 3#2

/-- STATUS, field by field from bit 15 down: reserved, ERR_K, ACC_CNT, HOLD_V, OBUF_CNT, DIR, VARIANT, PHASE (R20, R123). -/
def Engine.status (e : Engine) : BitVec 16 :=
  0#4 ++ e.errK ++ e.accCnt ++ BitVec.ofBool e.holdV ++ BitVec.ofNat 3 e.obuf.length ++ e.dir.toBit ++ e.variant.toBit
    ++ e.phase.toBits

/-- The engine's part of in_ready: a running session whose output has all been taken (R43, R101). -/
def Engine.accepting (e : Engine) : Bool := e.phase == .run && e.obuf.isEmpty

/-- in_ready (R43). -/
def Engine.inReady (e : Engine) (p : PortIn) : Bool := e.accepting && !p.rst && !p.start

/-- out_valid (R44). -/
def Engine.outValid (e : Engine) (p : PortIn) : Bool := !e.obuf.isEmpty && !p.rst && !p.start

/-- out_data: the head of OBUF while out_valid = 1. While out_valid = 0 it is not defined and must not be read (R44), so there
is none (log entry 15). -/
def Engine.outData (e : Engine) (p : PortIn) : Option Byte := if e.outValid p then e.obuf.head? else none

/-- PUSH_ENC_FIRST is enabled (R102). -/
def Engine.canPushEncFirst (e : Engine) : Bool := e.accepting && e.dir == .enc && !e.holdV

/-- PUSH_ENC_SECOND is enabled (R103). -/
def Engine.canPushEncSecond (e : Engine) : Bool := e.accepting && e.dir == .enc && e.holdV

/-- EOS_ENC is enabled (R104). -/
def Engine.canEosEnc (e : Engine) : Bool := e.accepting && e.dir == .enc

/-- PUSH_DEC_PARTIAL is enabled: ACC_CNT < N-1 (R105). -/
def Engine.canPushDecPartial (e : Engine) : Bool :=
  e.accepting && e.dir == .dec && decide (e.accCnt.toNat + 1 < e.variant.width)

/-- PUSH_DEC_LAST is enabled: ACC_CNT = N-1 (R106). -/
def Engine.canPushDecLast (e : Engine) : Bool :=
  e.accepting && e.dir == .dec && e.accCnt.toNat + 1 == e.variant.width

/-- EOS_DEC is enabled (R107). -/
def Engine.canEosDec (e : Engine) : Bool := e.accepting && e.dir == .dec

/-- POP is enabled, in any phase (R108). -/
def Engine.canPop (e : Engine) : Bool := !e.obuf.isEmpty

end Sys2Proof.Machine
end

