-- ==== Sys2Proof/Machine/Operands.lean ====
section
/-! DEFINITION. Operands: how the operations' operands are made. A unit's bytes and fields (spec/30_encoding.md R61, R62,
R64; the lead byte and the continuation bytes of spec/40_codec.md R87), the held byte widened (R103), the unit the grouper has
collected (R106), and the port inputs read as CTRL and IN words (R68, R69). -/

namespace Sys2Proof

/-- The unit's bytes in the order they travel, u0 first (R46). -/
def CodeUnit.bytes : CodeUnit → List Byte
  | .std u0 u1 u2 => [u0, u1, u2]
  | .ext u0 u1 u2 u3 => [u0, u1, u2, u3]

/-- The unit's variant (R60). -/
def CodeUnit.variant : CodeUnit → Variant
  | .std _ _ _ => .std
  | .ext _ _ _ _ => .ext

/-- L, the byte that holds F, P and Q: u0 for STD, u1 for EXT (R9, R87). -/
def CodeUnit.lead : CodeUnit → Byte
  | .std u0 _ _ => u0
  | .ext _ u1 _ _ => u1

/-- c1 = u[N-2] (R87). -/
def CodeUnit.cont1 : CodeUnit → Byte
  | .std _ u1 _ => u1
  | .ext _ _ u2 _ => u2

/-- c2 = u[N-1] (R87). -/
def CodeUnit.cont2 : CodeUnit → Byte
  | .std _ _ u2 => u2
  | .ext _ _ _ u3 => u3

/-- F, bit 2 of the lead (R61, R62). -/
def CodeUnit.flag (u : CodeUnit) : Bool := Byte.flagBit u.lead

/-- P, bit 1 of the lead: in the pair form bit 6 of byte0 (R61). -/
def CodeUnit.fieldP (u : CodeUnit) : BitVec 1 := bitAt u.lead 1

/-- Q, bit 0 of the lead: in the pair form bit 6 of byte1, in the single form bit 6 of byte0 (R61). -/
def CodeUnit.fieldQ (u : CodeUnit) : BitVec 1 := bitAt u.lead 0

/-- D0, bits 5:0 of the first continuation byte (R61). -/
def CodeUnit.fieldD0 (u : CodeUnit) : BitVec 6 := low6 u.cont1

/-- D1, bits 5:0 of the second continuation byte (R61). -/
def CodeUnit.fieldD1 (u : CodeUnit) : BitVec 6 := low6 u.cont2

/-- The source's bit6_of(b) shifted down to bit 0: `b[6]` as a byte (R97). -/
def bit6 (b : Byte) : Byte := (b &&& 0x40#8) >>> 6

/-- The source's low6(b) as a byte (R97). -/
def low6Byte (b : Byte) : Byte := b &&& 0x3F#8

namespace Machine

/-- `b[6:0]`, what HOLD keeps of an accepted byte (R16, R102). -/
def heldBits (b : Byte) : BitVec 7 := b.extractLsb' 0 7

/-- `zext_8(HOLD)` (R103, R104). -/
def Engine.heldByte (e : Engine) : Byte := e.hold.setWidth 8

/-- `[ACC[0], ..., ACC[N-2], b]` (R106). -/
def Engine.collected (e : Engine) (b : Byte) : CodeUnit :=
  match e.variant with
  | .std => .std e.acc.a0 e.acc.a1 b
  | .ext => .ext e.acc.a0 e.acc.a1 e.acc.a2 b

/-- ACC[i] <- b (R105). ACC has entries 0 to 2 and R105 is enabled only for those. -/
def Acc.set (a : Acc) (i : BitVec 2) (b : Byte) : Acc :=
  if i = 0#2 then { a with a0 := b }
  else if i = 1#2 then { a with a1 := b }
  else if i = 2#2 then { a with a2 := b }
  else a

/-- What selects among the rows of one word (R72, R100). -/
def Engine.selector (e : Engine) : Selector where
  variant := e.variant
  dir := e.dir
  holdV := e.holdV
  accCnt := e.accCnt

/-- The CTRL word the ports show: rst, start, cfg_dir, cfg_variant (R69). -/
def PortIn.ctrlWord (p : PortIn) : BitVec 4 :=
  BitVec.ofBool p.rst ++ BitVec.ofBool p.start ++ p.cfgDir ++ p.cfgVariant

/-- The IN word the ports offer: in_eos, in_data (R68). -/
def PortIn.inWord (p : PortIn) : BitVec 9 := BitVec.ofBool p.inEos ++ p.inData

end Machine

end Sys2Proof
end

