-- ==== Sys2Proof/Machine/Ops.lean ====
section
/-! DEFINITION. Ops: the named operations over the state that the meanings share (spec/00_scope.md R7), among them the entry into
the block's one error (spec/60_exceptions.md R131) and, beside it, the only two ways out of it, START and RESET
(R133; spec/42_control.md R120, R121). -/

namespace Sys2Proof.Machine

/-! ### The engine -/

/-- HOLD <- b[6:0]; HOLD_V <- 1 (R102). -/
def Engine.holdFirst (e : Engine) (b : Byte) : Engine := { e with hold := heldBits b, holdV := true }

/-- HOLD_V <- 0; HOLD keeps its stale value (R103, R104). -/
def Engine.releaseHold (e : Engine) : Engine := { e with holdV := false }

/-- ACC[ACC_CNT] <- b; ACC_CNT <- ACC_CNT + 1 (R105). -/
def Engine.collect (e : Engine) (b : Byte) : Engine :=
  { e with acc := e.acc.set e.accCnt b, accCnt := e.accCnt + 1#2 }

/-- ACC_CNT <- 0; the ACC entries keep their stale values (R106). -/
def Engine.releaseAcc (e : Engine) : Engine := { e with accCnt := 0#2 }

/-- Emit(xs): bytes enter OBUF at the tail (R7, R18). -/
def Engine.emit (e : Engine) (xs : List Byte) : Engine := { e with obuf := e.obuf ++ xs }

/-- OBUF <- tail(OBUF) (R108). -/
def Engine.dropHead (e : Engine) : Engine := { e with obuf := e.obuf.tail }

/-- PHASE <- DONE (R104, R107). -/
def Engine.finish (e : Engine) : Engine := { e with phase := .done }

/-- raise TruncatedCharacter(k): PHASE <- ERR; ERR_K <- k; ACC_CNT <- 0; no other state changes (R131). -/
def Engine.raiseTruncated (e : Engine) (k : BitVec 2) : Engine := { e with phase := .err, errK := k, accCnt := 0#2 }

/-- START's writes: CFG latched, PHASE <- RUN, everything else cleared, an error with it (R120, R133). -/
def Engine.openSession (_e : Engine) (v : Variant) (d : Dir) : Engine where
  variant := v
  dir := d
  phase := .run
  holdV := false
  hold := 0#7
  acc := ⟨0#8, 0#8, 0#8⟩
  accCnt := 0#2
  obuf := []
  errK := 0#2

/-- RESET's writes: every element to its value of R23, an error cleared with it (R121, R133). -/
def Engine.toReset (_e : Engine) : Engine := Engine.reset

/-! ### The whole state -/

/-- A step on the engine alone. -/
def State.setEng (s : State) (e : Engine) : State := { s with eng := e }

/-- The step's own stimulus is used up; the rest is pending. -/
def State.setPending (s : State) (rest : List Stimulus) : State := { s with env := { s.env with pending := rest } }

/-- Accept(): a data byte has entered the block (R7, R42). -/
def State.recordAccepted (s : State) (b : Byte) : State :=
  { s with env := { s.env with accepted := s.env.accepted ++ [b] } }

/-- The consumer has taken a byte (R108). -/
def State.recordPopped (s : State) (b : Byte) : State :=
  { s with env := { s.env with sink := s.env.sink ++ [b], output := s.env.output ++ [b] } }

/-- A codec operation run on its own has returned `xs` (R80). -/
def State.recordResult (s : State) (xs : List Byte) : State :=
  { s with env := { s.env with results := s.env.results ++ [xs] } }

/-- A STATUS read has returned `w` (R123). -/
def State.recordStatus (s : State) (w : BitVec 16) : State :=
  { s with env := { s.env with statusSeen := s.env.statusSeen ++ [w] } }

/-- A session ends and none of its record is left (R9 "Session", R113); the consumer's bytes stay where they are (R155). -/
def State.forgetSession (s : State) : State := { s with env := { s.env with accepted := [], output := [] } }

end Sys2Proof.Machine
end

