-- ==== Sys2Proof/Machine/Control.lean ====
section
/-! DEFINITION. Control: RESET, START, NOP and the STATUS read (spec/42_control.md), each enabled in every state. -/

namespace Sys2Proof.Machine

/-- RESET (R121). -/
def execReset (_ignored : BitVec 3) (s : State) : Host.Outcome State Fault Refusal :=
  .next (s.setEng s.eng.toReset).forgetSession

/-- START (R120). -/
def execStart (v : Variant) (d : Dir) (s : State) : Host.Outcome State Fault Refusal :=
  .next (s.setEng (s.eng.openSession v d)).forgetSession

/-- NOP (R124): no change; the configuration inputs are not sampled (R122). -/
def execNop (_ignored : BitVec 2) (s : State) : Host.Outcome State Fault Refusal :=
  .next s

/-- STATUS read (R123): no side effect on the engine. -/
def execStatusRead (s : State) : Host.Outcome State Fault Refusal :=
  .next (s.recordStatus s.eng.status)

end Sys2Proof.Machine
end

