-- ==== Sys2Proof/Machine/Codec.lean ====
section
/-! DEFINITION. Codec: the codec datapath (spec/40_codec.md), pure functions of the variant and the operands (R99), and the
meanings of the eight datapath rows run on their own: the operation's result is returned to whoever ran it, and the
engine's state is not touched (R80, R95, R99; log entry 6). The stream operations call `enc` and `dec`. -/

namespace Sys2Proof.Machine

/-! ### Encode (R82 to R85) -/

/-- ENC_STD_PAIR (R82). -/
def encStdPair (b0 b1 : Byte) : CodeUnit :=
  .std (0xE0#8 ||| (bit6 b0 <<< 1) ||| bit6 b1) (0x80#8 ||| low6Byte b0) (0x80#8 ||| low6Byte b1)

/-- ENC_STD_SINGLE (R83): bit 6 of b0 goes to bit 0 of the lead (spec/90_conflicts.md C1). -/
def encStdSingle (b0 : Byte) : CodeUnit :=
  .std (0xE4#8 ||| bit6 b0) (0x80#8 ||| low6Byte b0) 0x80#8

/-- ENC_EXT_PAIR (R84). -/
def encExtPair (b0 b1 : Byte) : CodeUnit :=
  .ext 0xF0#8 (0x90#8 ||| (bit6 b0 <<< 1) ||| bit6 b1) (0x80#8 ||| low6Byte b0) (0x80#8 ||| low6Byte b1)

/-- ENC_EXT_SINGLE (R85). -/
def encExtSingle (b0 : Byte) : CodeUnit :=
  .ext 0xF0#8 (0x94#8 ||| bit6 b0) (0x80#8 ||| low6Byte b0) 0x80#8

/-- ENC dispatch (R81). -/
def enc (v : Variant) (b0 : Byte) (b1opt : Option Byte) : CodeUnit :=
  match v, b1opt with
  | .std, some b1 => encStdPair b0 b1
  | .std, none => encStdSingle b0
  | .ext, some b1 => encExtPair b0 b1
  | .ext, none => encExtSingle b0

/-! ### Decode (R88 to R91): only the bits R92 lists are read -/

/-- DEC_STD_PAIR (R88). -/
def decStdPair (u0 u1 u2 : Byte) : List Byte := [lane (bitAt u0 1) (low6 u1), lane (bitAt u0 0) (low6 u2)]

/-- DEC_STD_SINGLE (R89): u0[1] and all of u2 are not read. -/
def decStdSingle (u0 u1 _u2 : Byte) : List Byte := [lane (bitAt u0 0) (low6 u1)]

/-- DEC_EXT_PAIR (R90): u0 is not read. -/
def decExtPair (_u0 u1 u2 u3 : Byte) : List Byte := [lane (bitAt u1 1) (low6 u2), lane (bitAt u1 0) (low6 u3)]

/-- DEC_EXT_SINGLE (R91): u0, u1[1] and u3 are not read. -/
def decExtSingle (_u0 u1 u2 _u3 : Byte) : List Byte := [lane (bitAt u1 0) (low6 u2)]

/-- DEC dispatch (R87): the flag F is the only bit that selects the form. -/
def dec (u : CodeUnit) : List Byte :=
  match u with
  | .std u0 u1 u2 => if Byte.flagBit u0 then decStdSingle u0 u1 u2 else decStdPair u0 u1 u2
  | .ext u0 u1 u2 u3 => if Byte.flagBit u1 then decExtSingle u0 u1 u2 u3 else decExtPair u0 u1 u2 u3

/-! ### The rows run on their own -/

/-- ENC_STD_PAIR (R82). -/
def execEncStdPair (b0 b1 : Byte) (s : State) : Host.Outcome State Fault Refusal :=
  .next (s.recordResult (encStdPair b0 b1).bytes)

/-- ENC_STD_SINGLE (R83). -/
def execEncStdSingle (b0 : Byte) (s : State) : Host.Outcome State Fault Refusal :=
  .next (s.recordResult (encStdSingle b0).bytes)

/-- ENC_EXT_PAIR (R84). -/
def execEncExtPair (b0 b1 : Byte) (s : State) : Host.Outcome State Fault Refusal :=
  .next (s.recordResult (encExtPair b0 b1).bytes)

/-- ENC_EXT_SINGLE (R85). -/
def execEncExtSingle (b0 : Byte) (s : State) : Host.Outcome State Fault Refusal :=
  .next (s.recordResult (encExtSingle b0).bytes)

/-- DEC_STD_PAIR (R88). -/
def execDecStdPair (u0 u1 u2 : Byte) (s : State) : Host.Outcome State Fault Refusal :=
  .next (s.recordResult (decStdPair u0 u1 u2))

/-- DEC_STD_SINGLE (R89). -/
def execDecStdSingle (u0 u1 u2 : Byte) (s : State) : Host.Outcome State Fault Refusal :=
  .next (s.recordResult (decStdSingle u0 u1 u2))

/-- DEC_EXT_PAIR (R90). -/
def execDecExtPair (u0 u1 u2 u3 : Byte) (s : State) : Host.Outcome State Fault Refusal :=
  .next (s.recordResult (decExtPair u0 u1 u2 u3))

/-- DEC_EXT_SINGLE (R91). -/
def execDecExtSingle (u0 u1 u2 u3 : Byte) (s : State) : Host.Outcome State Fault Refusal :=
  .next (s.recordResult (decExtSingle u0 u1 u2 u3))

end Sys2Proof.Machine
end

