-- ==== Sys2Proof/Machine/Stream.lean ====
section
/-! DEFINITION. Stream: the data steps (spec/41_stream.md): PUSH and EOS in either direction, and POP. Where a row is not
enabled there is no step: the state is unchanged and no byte moves (R101, R109; log entries 3 and 4). -/

namespace Sys2Proof.Machine

/-- PUSH, ENC, first byte of a pair (R102). -/
def execPushEncFirst (b : Byte) (s : State) : Host.Outcome State Fault Refusal :=
  if s.eng.canPushEncFirst then .next ((s.setEng (s.eng.holdFirst b)).recordAccepted b)
  else .next s

/-- PUSH, ENC, second byte of a pair (R103). -/
def execPushEncSecond (b : Byte) (s : State) : Host.Outcome State Fault Refusal :=
  if s.eng.canPushEncSecond then
    .next ((s.setEng (s.eng.emit (enc s.eng.variant s.eng.heldByte (some b)).bytes).releaseHold).recordAccepted b)
  else .next s

/-- EOS, ENC (R104): a held byte leaves as the flagged unit. -/
def execEosEnc (_ignored : Byte) (s : State) : Host.Outcome State Fault Refusal :=
  if s.eng.canEosEnc then
    if s.eng.holdV then
      .next (s.setEng (s.eng.emit (enc s.eng.variant s.eng.heldByte none).bytes).releaseHold.finish)
    else .next (s.setEng s.eng.finish)
  else .next s

/-- PUSH, DEC, byte inside a unit (R105). -/
def execPushDecPartial (b : Byte) (s : State) : Host.Outcome State Fault Refusal :=
  if s.eng.canPushDecPartial then .next ((s.setEng (s.eng.collect b)).recordAccepted b)
  else .next s

/-- PUSH, DEC, last byte of a unit (R106). -/
def execPushDecLast (b : Byte) (s : State) : Host.Outcome State Fault Refusal :=
  if s.eng.canPushDecLast then
    .next ((s.setEng (s.eng.emit (dec (s.eng.collected b))).releaseAcc).recordAccepted b)
  else .next s

/-- EOS, DEC (R107): a partial unit raises TruncatedCharacter (R131). -/
def execEosDec (_ignored : Byte) (s : State) : Host.Outcome State Fault Refusal :=
  if s.eng.canEosDec then
    if s.eng.accCnt = 0#2 then .next (s.setEng s.eng.finish)
    else .next (s.setEng (s.eng.raiseTruncated s.eng.accCnt))
  else .next s

/-- POP (R108), in any phase. -/
def execPop (s : State) : Host.Outcome State Fault Refusal :=
  match s.eng.obuf with
  | [] => .next s
  | b :: _ => .next ((s.setEng s.eng.dropHead).recordPopped b)

end Sys2Proof.Machine
end

