-- ==== Sys2Proof/Machine/Dispatch.lean ====
section
/-! DEFINITION. Dispatch: one arm per constructor of Instr, in the order of spec/opcode_table.json. -/

namespace Sys2Proof.Machine

def exec (i : Instr) (s : State) : Host.Outcome State Fault Refusal :=
  match i with
  | .encStdPair b0 b1 => Sys2Proof.Machine.execEncStdPair b0 b1 s
  | .encStdSingle b0 => Sys2Proof.Machine.execEncStdSingle b0 s
  | .encExtPair b0 b1 => Sys2Proof.Machine.execEncExtPair b0 b1 s
  | .encExtSingle b0 => Sys2Proof.Machine.execEncExtSingle b0 s
  | .decStdPair u0 u1 u2 => Sys2Proof.Machine.execDecStdPair u0 u1 u2 s
  | .decStdSingle u0 u1 u2 => Sys2Proof.Machine.execDecStdSingle u0 u1 u2 s
  | .decExtPair u0 u1 u2 u3 => Sys2Proof.Machine.execDecExtPair u0 u1 u2 u3 s
  | .decExtSingle u0 u1 u2 u3 => Sys2Proof.Machine.execDecExtSingle u0 u1 u2 u3 s
  | .pushEncFirst b => Sys2Proof.Machine.execPushEncFirst b s
  | .pushEncSecond b => Sys2Proof.Machine.execPushEncSecond b s
  | .eosEnc x => Sys2Proof.Machine.execEosEnc x s
  | .pushDecPartial b => Sys2Proof.Machine.execPushDecPartial b s
  | .pushDecLast b => Sys2Proof.Machine.execPushDecLast b s
  | .eosDec x => Sys2Proof.Machine.execEosDec x s
  | .pop => Sys2Proof.Machine.execPop s
  | .reset x => Sys2Proof.Machine.execReset x s
  | .start v d => Sys2Proof.Machine.execStart v d s
  | .nop x => Sys2Proof.Machine.execNop x s
  | .statusRead => Sys2Proof.Machine.execStatusRead s

end Sys2Proof.Machine
end

