-- ==== Sys2Proof/Machine/Fetch.lean ====
section
/-! DEFINITION. Fetch: which operation a step runs. The block fetches no instruction (spec/20_memory.md R55); what a step runs
is the event its ports show (R42, R138), a STATUS read (R123), or a codec operation run on its own. It also holds how
one given operation is placed so that the very next step runs it (log entry 7). -/

namespace Sys2Proof.Machine

/-- The event the ports show, as the word it transfers: RESET and START first, then an accepted IN, then an accepted OUT,
else no event, which is the CTRL word's NOP (R42, R124, R138). An offer that is not accepted transfers nothing. -/
def eventWord (e : Engine) (p : PortIn) : HostWord :=
  if p.rst || p.start then .ctrl p.ctrlWord
  else if p.inValid && e.inReady p then .inp p.inWord
  else if p.outReady && e.outValid p then .out
  else .ctrl p.ctrlWord

/-- The word a stimulus hands the block. -/
def stimulusWord (e : Engine) : Stimulus → HostWord
  | .ports p => eventWord e p
  | .statusRead => .status
  | .unit u => .unit u

/-- The operation a stimulus makes the engine run. -/
def fetch (e : Engine) (x : Stimulus) : Except Reject Instr := decode e.selector (stimulusWord e x)

/-- How a step stops where its stimulus is no operation. -/
def stopFor : Reject → Host.Outcome State Fault Refusal
  | .unitLength => .refused .unitLength
  | .unitForm => .refused .unitForm
  | .accCount => .fault .accCountBeyondUnit

/-! ### Placing one operation -/

/-- Ports on which nothing is asked for. -/
def PortIn.idle : PortIn where
  rst := false
  start := false
  cfgVariant := 0#1
  cfgDir := 0#1
  inValid := false
  inEos := false
  inData := 0#8
  outReady := false

/-- The stimulus that hands the block a word. -/
def Stimulus.ofWord : HostWord → Stimulus
  | .unit u => .unit u
  | .inp w => .ports { PortIn.idle with inValid := true, inEos := w.getLsbD 8, inData := w.extractLsb' 0 8 }
  | .ctrl w =>
    .ports { PortIn.idle with
      rst := w.getLsbD 3, start := w.getLsbD 2, cfgDir := w.extractLsb' 1 1, cfgVariant := w.extractLsb' 0 1 }
  | .out => .ports { PortIn.idle with outReady := true }
  | .status => .statusRead

/-- A running session of direction `d` with no output waiting, so that in_ready = 1 (R43). -/
def Engine.ready (e : Engine) (d : Dir) : Engine := { e with phase := .run, obuf := [], dir := d }

/-- CFG as a datapath row's "select" column has it. -/
def Engine.configured (e : Engine) (v : Variant) (d : Dir) : Engine := { e with variant := v, dir := d }

/-- The engine with the elements that the row's "select" and "when" columns name set so that the row is the one that
runs; every other element keeps its value. -/
def Engine.enable (e : Engine) : Instr → Engine
  | .encStdPair _ _ => e.configured .std .enc
  | .encStdSingle _ => e.configured .std .enc
  | .encExtPair _ _ => e.configured .ext .enc
  | .encExtSingle _ => e.configured .ext .enc
  | .decStdPair _ _ _ => e.configured .std .dec
  | .decStdSingle _ _ _ => e.configured .std .dec
  | .decExtPair _ _ _ _ => e.configured .ext .dec
  | .decExtSingle _ _ _ _ => e.configured .ext .dec
  | .pushEncFirst _ => { e.ready .enc with holdV := false }
  | .pushEncSecond _ => { e.ready .enc with holdV := true }
  | .eosEnc _ => e.ready .enc
  | .pushDecPartial _ => { e.ready .dec with accCnt := 0#2 }
  | .pushDecLast _ => { e.ready .dec with accCnt := BitVec.ofNat 2 (e.variant.width - 1) }
  | .eosDec _ => e.ready .dec
  | .pop => if e.obuf.isEmpty then { e with obuf := [0#8] } else e
  | .reset _ => e
  | .start _ _ => e
  | .nop _ => e
  | .statusRead => e

/-- The state with the operation's own word as the next stimulus and its row enabled. -/
def State.stage (s : State) (i : Instr) : State :=
  (s.setEng (s.eng.enable i)).setPending (Stimulus.ofWord (encode i) :: s.env.pending)

end Sys2Proof.Machine
end

