-- ==== Sys2Proof/Machine/Step.lean ====
section
/-! DEFINITION. Step: one atomic step (spec/00_scope.md R7, spec/41_stream.md R100) on the next stimulus of the host. With none pending there
is no event and the state is unchanged (spec/20_memory.md R42 'none', spec/70_reset_and_hazards.md R160). -/

namespace Sys2Proof.Machine

def step (s : State) : Host.Outcome State Fault Refusal :=
  match s.env.pending with
  | [] => .next s
  | x :: rest =>
    match fetch s.eng x with
    | .ok i => exec i (s.setPending rest)
    | .error r => stopFor r

/-- The state in which the very next step runs the operation of a table word (log entry 7). -/
def State.withFetchWord (s : State) (nbits w : Nat) : State :=
  match decodeTableWord nbits w with
  | none => s
  | some i => s.stage i

end Sys2Proof.Machine
end

