-- ==== Sys2Proof/Machine/Session.lean ====
section
/-! DEFINITION. Session: what the spec says of whole sessions: the stream functions of the functional characterisation
(spec/41_stream.md R114), the output sizes (R111, R112), the end of a session and its observation (R113), and a schedule of
stimuli that runs one session to its end in the number of steps R117 gives. -/

namespace Sys2Proof.Machine

/-- encodeStream (R114). -/
def encodeStream (v : Variant) : List Byte → List Byte
  | [] => []
  | [a] => (enc v a none).bytes
  | a :: b :: r => (enc v a (some b)).bytes ++ encodeStream v r

/-- decodeStream for units of 3 bytes: over the complete groups (R114). -/
def decodeStreamStd : List Byte → List Byte
  | u0 :: u1 :: u2 :: r => dec (.std u0 u1 u2) ++ decodeStreamStd r
  | _ => []

/-- decodeStream for units of 4 bytes. -/
def decodeStreamExt : List Byte → List Byte
  | u0 :: u1 :: u2 :: u3 :: r => dec (.ext u0 u1 u2 u3) ++ decodeStreamExt r
  | _ => []

/-- decodeStream (R114). -/
def decodeStream (v : Variant) (t : List Byte) : List Byte :=
  match v with
  | .std => decodeStreamStd t
  | .ext => decodeStreamExt t

/-- How many complete 3-byte units have F = 1 (R112's f). -/
def flaggedStd : List Byte → Nat
  | u0 :: u1 :: u2 :: r => (CodeUnit.std u0 u1 u2).flag.toNat + flaggedStd r
  | _ => 0

/-- How many complete 4-byte units have F = 1. -/
def flaggedExt : List Byte → Nat
  | u0 :: u1 :: u2 :: u3 :: r => (CodeUnit.ext u0 u1 u2 u3).flag.toNat + flaggedExt r
  | _ => 0

/-- f of R112. -/
def flaggedUnits (v : Variant) (t : List Byte) : Nat :=
  match v with
  | .std => flaggedStd t
  | .ext => flaggedExt t

/-- ceil(n/2) * N (R111). -/
def encodeSize (v : Variant) (n : Nat) : Nat := (n + 1) / 2 * v.width

/-- A session has ended: PHASE is DONE or ERR and OBUF is empty (R113). -/
def State.ended (s : State) : Bool := (s.eng.phase == .done || s.eng.phase == .err) && s.eng.obuf.isEmpty

/-- The bytes of the partial unit, ACC[0..ACC_CNT-1] (R17). -/
def Engine.partialUnit (e : Engine) : List Byte := [e.acc.a0, e.acc.a1, e.acc.a2].take e.accCnt.toNat

/-! ### A schedule for one session (R117, R152)

One host that is fair in the sense of R161 and never idle. Machine/Fairness.lean has every fair host. -/

/-- The ports at a START v, d (R120). -/
def offerStart (v : Variant) (d : Dir) : Stimulus :=
  .ports { PortIn.idle with start := true, cfgVariant := v.toBit, cfgDir := d.toBit }

/-- The producer offers a data byte (R41). -/
def offerByte (b : Byte) : Stimulus := .ports { PortIn.idle with inValid := true, inData := b }

/-- The producer offers end of stream (R41). -/
def offerEos : Stimulus := .ports { PortIn.idle with inValid := true, inEos := true }

/-- The consumer is ready (R41). -/
def takeByte : Stimulus := .ports { PortIn.idle with outReady := true }

/-- An encode session after START: the input in order, each unit taken before the next byte is offered (R153), EOS, the
last unit taken. -/
def encodeSchedule (v : Variant) : List Byte → List Stimulus
  | [] => [offerEos]
  | [a] => [offerByte a, offerEos] ++ List.replicate v.width takeByte
  | a :: b :: r => [offerByte a, offerByte b] ++ List.replicate v.width takeByte ++ encodeSchedule v r

/-- A decode session after START for units of 3 bytes: each decoded byte is taken as it comes. -/
def decodeScheduleStd : List Byte → List Stimulus
  | u0 :: u1 :: u2 :: r =>
    [offerByte u0, offerByte u1, offerByte u2] ++ List.replicate (dec (.std u0 u1 u2)).length takeByte
      ++ decodeScheduleStd r
  | t => t.map offerByte ++ [offerEos]

/-- A decode session after START for units of 4 bytes. -/
def decodeScheduleExt : List Byte → List Stimulus
  | u0 :: u1 :: u2 :: u3 :: r =>
    [offerByte u0, offerByte u1, offerByte u2, offerByte u3]
      ++ List.replicate (dec (.ext u0 u1 u2 u3)).length takeByte ++ decodeScheduleExt r
  | t => t.map offerByte ++ [offerEos]

/-- A decode session after START. -/
def decodeSchedule (v : Variant) (t : List Byte) : List Stimulus :=
  match v with
  | .std => decodeScheduleStd t
  | .ext => decodeScheduleExt t

end Sys2Proof.Machine
end

