-- ==== Sys2Proof/Machine/Fairness.lean ====
section
/-! DEFINITION. Fairness: an endless run of the machine against a host that may do what it likes at each step, the two fairness
assumptions of spec/70_reset_and_hazards.md R161 on that host, and the termination that rests on them
(spec/41_stream.md R117). A host here is one stimulus a step; nothing of it is state (R25; log entry 19). -/

namespace Sys2Proof.Machine

/-- The port values while the host does this. A STATUS read and a datapath operation drive no port. -/
def Stimulus.portIn : Stimulus → PortIn
  | .ports p => p
  | .statusRead => PortIn.idle
  | .unit _ => PortIn.idle

/-- `run` is a run against `host`: at each step the machine takes what the host does there. -/
abbrev IsRun (host : Nat → Stimulus) (run : Nat → State) : Prop :=
  ∀ k, step ((run k).setPending [host k]) = .next (run (k + 1))

/-- The controller leaves the session alone: neither RESET nor START (R9 "Session"). -/
abbrev NoControl (host : Nat → Stimulus) : Prop :=
  ∀ k, (host k).portIn.rst = false ∧ (host k).portIn.start = false

/-- in_ready at the ports the host drives (R43). -/
def State.waitsForInput (s : State) (x : Stimulus) : Bool := s.eng.inReady x.portIn

/-- out_valid at the ports the host drives (R44). -/
def State.waitsForConsumer (s : State) (x : Stimulus) : Bool := s.eng.outValid x.portIn

/-- What the producer sends is `input` in order, then EOS: at each step whose offer the engine accepts, the offer is the
next byte of `input` not accepted yet, or EOS where none is left (R152). An offer the engine does not accept may be anything, since
the block never samples it (R153). -/
abbrev ProducerSends (input : List Byte) (host : Nat → Stimulus) (run : Nat → State) : Prop :=
  ∀ k, (run k).waitsForInput (host k) = true → (host k).portIn.inValid = true →
    match input[(run k).env.accepted.length]? with
    | some b => (host k).portIn.inEos = false ∧ (host k).portIn.inData = b
    | none => (host k).portIn.inEos = true

/-- Weak fairness of the producer (R161): the engine does not wait for ever for an input that is not offered. -/
abbrev ProducerFair (host : Nat → Stimulus) (run : Nat → State) : Prop :=
  ∀ k, ∃ j, k ≤ j ∧ ((run j).waitsForInput (host j) = true → (host j).portIn.inValid = true)

/-- Weak fairness of the consumer (R161): out_ready is eventually 1 while out_valid = 1. -/
abbrev ConsumerFair (host : Nat → Stimulus) (run : Nat → State) : Prop :=
  ∀ k, ∃ j, k ≤ j ∧ ((run j).waitsForConsumer (host j) = true → (host j).portIn.outReady = true)

/-- What the two host agents must do for a session over `input` to end (R161). -/
structure FairHost (input : List Byte) (host : Nat → Stimulus) (run : Nat → State) : Prop where
  noControl : NoControl host
  sends : ProducerSends input host run
  producer : ProducerFair host run
  consumer : ConsumerFair host run

/-- The session of a run ends, and stays ended (R113, R117). -/
abbrev Terminates (run : Nat → State) : Prop := ∃ n, ∀ m, n ≤ m → (run m).ended = true

/-- What a session of this direction puts out for this input (R114). -/
def sessionOutput (v : Variant) (d : Dir) (input : List Byte) : List Byte :=
  match d with
  | .enc => encodeStream v input
  | .dec => decodeStream v input

end Sys2Proof.Machine
end

