-- ==== Sys2Proof/Machine/Units.lean ====
section
/-! DEFINITION. Units: what the spec says OF encoded units and the engine never computes: the four well-formed forms as match
and mask on the word view (spec/30_encoding.md R63), the code point of a unit and its validity as UTF-8 (R65, R66). The last two
rest on the UTF-8 standard, which the spec marks as general knowledge (spec/93_implementation_defined.md G1; log entry 16). -/

namespace Sys2Proof

/-- The word view W of a unit, u0 most significant (R46); a Standard unit's 24 bits stand in bits 23:0. -/
def CodeUnit.word : CodeUnit → BitVec 32
  | .std u0 u1 u2 => 0#8 ++ u0 ++ u1 ++ u2
  | .ext u0 u1 u2 u3 => u0 ++ u1 ++ u2 ++ u3

/-- The forms of R63. -/
inductive UnitForm where
  | stdPair
  | stdSingle
  | extPair
  | extSingle
  deriving DecidableEq, Repr

/-- The form's variant. -/
def UnitForm.variant : UnitForm → Variant
  | .stdPair => .std
  | .stdSingle => .std
  | .extPair => .ext
  | .extSingle => .ext

/-- W match (R63). -/
def UnitForm.matchWord : UnitForm → BitVec 32
  | .stdPair => 0xE08080#32
  | .stdSingle => 0xE48080#32
  | .extPair => 0xF0908080#32
  | .extSingle => 0xF0948080#32

/-- W mask (R63). -/
def UnitForm.maskWord : UnitForm → BitVec 32
  | .stdPair => 0xFCC0C0#32
  | .stdSingle => 0xFEC0FF#32
  | .extPair => 0xFFFCC0C0#32
  | .extSingle => 0xFFFEC0FF#32

/-- The unit matches the form's pattern. -/
def CodeUnit.hasForm (u : CodeUnit) (f : UnitForm) : Bool :=
  u.variant == f.variant && u.word &&& f.maskWord == f.matchWord

/-- The code point by the UTF-8 formula R65 quotes. -/
def CodeUnit.codePoint : CodeUnit → Nat
  | .std u0 u1 u2 => (u0.extractLsb' 0 4 ++ low6 u1 ++ low6 u2).toNat
  | .ext u0 u1 u2 u3 => (u0.extractLsb' 0 3 ++ low6 u1 ++ low6 u2 ++ low6 u3).toNat

/-- Well-formed UTF-8 (R66, G1): the lead pattern of the width, continuation bytes after it, no overlong form, no surrogate,
nothing above U+10FFFF. -/
def CodeUnit.isUtf8 : CodeUnit → Bool
  | .std u0 u1 u2 =>
    u0.extractLsb' 4 4 == 0b1110#4 && isContinuation u1 && isContinuation u2
      && (u0 != 0xE0#8 || decide (0xA0 ≤ u1.toNat)) && (u0 != 0xED#8 || decide (u1.toNat < 0xA0))
  | .ext u0 u1 u2 u3 =>
    u0.extractLsb' 3 5 == 0b11110#5 && isContinuation u1 && isContinuation u2 && isContinuation u3
      && (u0 != 0xF0#8 || decide (0x90 ≤ u1.toNat)) && decide (u0.toNat < 0xF4 || u0.toNat = 0xF4 ∧ u1.toNat < 0x90)

end Sys2Proof
end

