-- ==== Sys2Proof/Safety.lean ====
section
/-! DEFINITION. Safety: the invariants the spec gives the machine, over every state. `Engine.Sound` is R21 with the range of
ACC_CNT from R17 and the idle state of R151; `State.Faithful` ties what the consumer has received, and what OBUF, HOLD and ACC still hold,
to the bytes accepted (spec/20_memory.md R48, spec/41_stream.md R114, spec/10_state.md R16, R17). -/

namespace Sys2Proof.Machine

/-- R21 (i). -/
abbrev Engine.OneGrouper (e : Engine) : Prop :=
  (e.dir = .enc → e.accCnt = 0#2) ∧ (e.dir = .dec → e.holdV = false)

/-- R21 (ii). -/
abbrev Engine.GroupersEmptyOutsideRun (e : Engine) : Prop :=
  e.phase ≠ .run → e.holdV = false ∧ e.accCnt = 0#2

/-- R21 (iii), and the rest of the state after reset (R15: only RESET leads to IDLE; R151). -/
abbrev Engine.IdleIsReset (e : Engine) : Prop := e.phase = .idle → e = Engine.reset

/-- R21 (iv), R19. -/
abbrev Engine.ErrorRecorded (e : Engine) : Prop :=
  (e.phase = .err → e.dir = .dec ∧ e.obuf = [] ∧ 1 ≤ e.errK.toNat ∧ e.errK.toNat + 1 ≤ e.variant.width) ∧
  (e.phase ≠ .err → e.errK = 0#2)

/-- R21 (v), R18. -/
abbrev Engine.OutputBounded (e : Engine) : Prop :=
  (e.dir = .enc → e.obuf.length ≤ e.variant.width) ∧ (e.dir = .dec → e.obuf.length ≤ 2)

/-- R21 (vi). -/
abbrev Engine.OutputThenInput (e : Engine) : Prop :=
  e.obuf ≠ [] → e.holdV = false ∧ e.accCnt = 0#2

/-- R17: ACC_CNT is in 0..N-1. -/
abbrev Engine.PartialUnitShort (e : Engine) : Prop := e.accCnt.toNat + 1 ≤ e.variant.width

/-- The engine's invariant. -/
abbrev Engine.Sound (e : Engine) : Prop :=
  e.OneGrouper ∧ e.GroupersEmptyOutsideRun ∧ e.IdleIsReset ∧ e.ErrorRecorded ∧ e.OutputBounded ∧ e.OutputThenInput ∧
  e.PartialUnitShort

/-- Before any START of this reset, no session has left a record. -/
abbrev State.IdleRecordsNothing (s : State) : Prop :=
  s.eng.phase = .idle → s.env.accepted = [] ∧ s.env.output = []

/-- An encode session: with a byte held, an odd number of bytes has been accepted and the last is the one held (R16);
what came out, with what is in OBUF, encodes the bytes already paired, or all of them where none is held (R114). -/
abbrev State.EncodesAccepted (s : State) : Prop :=
  s.eng.phase ≠ .idle → s.eng.dir = .enc →
    (s.eng.holdV = true →
      s.env.accepted.length % 2 = 1 ∧ s.env.accepted.getLast?.map heldBits = some s.eng.hold ∧
      s.env.output ++ s.eng.obuf = encodeStream s.eng.variant s.env.accepted.dropLast) ∧
    (s.eng.holdV = false →
      (s.eng.phase = .run → s.env.accepted.length % 2 = 0) ∧
      s.env.output ++ s.eng.obuf = encodeStream s.eng.variant s.env.accepted)

/-- A decode session: what came out, with what is in OBUF, decodes the complete units (R114); ACC_CNT is the number of
accepted bytes modulo N, and ACC holds those bytes (R17); DONE means no byte was left, ERR that ERR_K were (R112). -/
abbrev State.DecodesAccepted (s : State) : Prop :=
  s.eng.phase ≠ .idle → s.eng.dir = .dec →
    s.env.output ++ s.eng.obuf = decodeStream s.eng.variant s.env.accepted ∧
    (s.eng.phase = .run →
      s.eng.accCnt.toNat = s.env.accepted.length % s.eng.variant.width ∧
      s.eng.partialUnit =
        s.env.accepted.drop (s.env.accepted.length / s.eng.variant.width * s.eng.variant.width)) ∧
    (s.eng.phase = .done → s.env.accepted.length % s.eng.variant.width = 0) ∧
    (s.eng.phase = .err → s.eng.errK.toNat = s.env.accepted.length % s.eng.variant.width)

/-- The stream invariant: the output is always the encoding or decoding of what was accepted, whatever the schedule. -/
abbrev State.Faithful (s : State) : Prop := s.IdleRecordsNothing ∧ s.EncodesAccepted ∧ s.DecodesAccepted

end Sys2Proof.Machine
end

