-- ==== Sys2Proof/Certificates/Slice0/Obligations.lean ====
section
/-! DEFINITION. Obligations: the statements about the model, in the order of OBLIGATIONS.json. A clause that rests on a log entry is
named in the docstring. The record update in an equation about a state is that instruction's frame: every field it does not name is
unchanged. -/

open Sys2Proof Sys2Proof.Machine

/-! ### Encodings -/

/-- R63, R68, R69, R70, R72: every well-formed operation, at every operand value its encoding admits, is read back from its word
wherever the engine selects its row. -/
def Obligations.DecodeOfEncodeIsIdentity : Prop :=
  ∀ (c : Selector) (i : Instr), i.wellFormed = true → c.admits i = true → decode c (encode i) = .ok i

/-- The other direction: a word that decodes is the encoding of the well-formed, selected operation it decodes to. -/
def Obligations.DecodedWordIsItsEncoding : Prop :=
  ∀ (c : Selector) (w : HostWord) (i : Instr),
    decode c w = .ok i → i.wellFormed = true ∧ c.admits i = true ∧ encode i = w

/-- A few words: the vectors V1, V4 and V6 (R82, R89, R85) and IN and CTRL words of programs P1 to P3, written out from the spec. Where
a selector stands beside the word, the row is the one R72 and R100 give. The five clauses about `decodeTableWord` are the model's choice (log
entry 7): which row it reads from a word alone, and the sizes of 8 and 16 bits in which it reads a CTRL and an IN word. -/
def Obligations.SpecWordsDecode : Prop :=
  decodeTableWord 24 0xE3A1A4 = some (.encStdPair 0x61#8 0x64#8) ∧
  decodeTableWord 32 0xF095B880 = some (.encExtSingle 0x78#8) ∧
  decode ⟨.std, .dec, false, 2#2⟩ (.unit [0xE5#8, 0xB8#8, 0x80#8]) = .ok (.decStdSingle 0xE5#8 0xB8#8 0x80#8) ∧
  decode ⟨.std, .enc, true, 0#2⟩ (.inp 0x062#9) = .ok (.pushEncSecond 0x62#8) ∧
  decode ⟨.std, .dec, false, 2#2⟩ (.inp 0x0A4#9) = .ok (.pushDecLast 0xA4#8) ∧
  decode ⟨.ext, .dec, false, 2#2⟩ (.inp 0x0A1#9) = .ok (.pushDecPartial 0xA1#8) ∧
  decodeTableWord 16 0x100 = some (.eosEnc 0x00#8) ∧
  decodeTableWord 8 0b0111 = some (.start .ext .dec) ∧
  decodeTableWord 8 0b1000 = some (.reset 0b000#3)

/-- R63: the units the encoder returns are exactly those that match the form's pattern and mask. -/
def Obligations.EncodedUnitsAreTheFourForms : Prop :=
  ∀ u : CodeUnit,
    ((∃ b0 b1, enc .std b0 (some b1) = u) ↔ u.hasForm .stdPair = true) ∧
    ((∃ b0, enc .std b0 none = u) ↔ u.hasForm .stdSingle = true) ∧
    ((∃ b0 b1, enc .ext b0 (some b1) = u) ↔ u.hasForm .extPair = true) ∧
    ((∃ b0, enc .ext b0 none = u) ↔ u.hasForm .extSingle = true)

/-- R61, R62, R64 (encode), R98: the fields of an encoded unit. In the single form bit 6 of byte0 is in Q and P is 0. -/
def Obligations.EncodedUnitFields : Prop :=
  ∀ (v : Variant) (b0 b1 : Byte),
    ((enc v b0 (some b1)).flag = false ∧ (enc v b0 (some b1)).fieldP = b0.extractLsb' 6 1 ∧
      (enc v b0 (some b1)).fieldQ = b1.extractLsb' 6 1 ∧ (enc v b0 (some b1)).fieldD0 = b0.extractLsb' 0 6 ∧
      (enc v b0 (some b1)).fieldD1 = b1.extractLsb' 0 6) ∧
    ((enc v b0 none).flag = true ∧ (enc v b0 none).fieldP = 0#1 ∧ (enc v b0 none).fieldQ = b0.extractLsb' 6 1 ∧
      (enc v b0 none).fieldD0 = b0.extractLsb' 0 6 ∧ (enc v b0 none).cont2 = 0x80#8)

/-- The word the encoder gives an encode row is the unit the datapath row returns (R63, R82 to R85): two writings of the
layouts, one from the tables and one from the pseudocode, agree. -/
def Obligations.EncodeRowWordIsItsUnit : Prop :=
  ∀ b0 b1 : Byte,
    encode (.encStdPair b0 b1) = .unit (encStdPair b0 b1).bytes ∧
    encode (.encStdSingle b0) = .unit (encStdSingle b0).bytes ∧
    encode (.encExtPair b0 b1) = .unit (encExtPair b0 b1).bytes ∧
    encode (.encExtSingle b0) = .unit (encExtSingle b0).bytes

/-! ### The codec datapath -/

/-- R82 to R85: each encode row completes for all bytes and returns its unit, given here bit field by bit field. That the unit is
recorded in `env.results` is the model's choice (log entry 6). -/
def Obligations.EncodeRowsReturnTheirUnits : Prop :=
  ∀ (s : State) (b0 b1 : Byte),
    exec (.encStdPair b0 b1) s = .next { s with env := { s.env with results := s.env.results ++
      [[0b111000#6 ++ b0.extractLsb' 6 1 ++ b1.extractLsb' 6 1, 0b10#2 ++ b0.extractLsb' 0 6,
        0b10#2 ++ b1.extractLsb' 0 6]] } } ∧
    exec (.encStdSingle b0) s = .next { s with env := { s.env with results := s.env.results ++
      [[0b1110010#7 ++ b0.extractLsb' 6 1, 0b10#2 ++ b0.extractLsb' 0 6, 0x80#8]] } } ∧
    exec (.encExtPair b0 b1) s = .next { s with env := { s.env with results := s.env.results ++
      [[0xF0#8, 0b100100#6 ++ b0.extractLsb' 6 1 ++ b1.extractLsb' 6 1, 0b10#2 ++ b0.extractLsb' 0 6,
        0b10#2 ++ b1.extractLsb' 0 6]] } } ∧
    exec (.encExtSingle b0) s = .next { s with env := { s.env with results := s.env.results ++
      [[0xF0#8, 0b1001010#7 ++ b0.extractLsb' 6 1, 0b10#2 ++ b0.extractLsb' 0 6, 0x80#8]] } }

/-- R88 to R91: each decode row completes for all bytes, well-formed or not, and returns its one or two bytes. That they are recorded in
`env.results` is the model's choice (log entry 6). -/
def Obligations.DecodeRowsReturnTheirBytes : Prop :=
  ∀ (s : State) (u0 u1 u2 u3 : Byte),
    exec (.decStdPair u0 u1 u2) s = .next { s with env := { s.env with results := s.env.results ++
      [[0#1 ++ u0.extractLsb' 1 1 ++ u1.extractLsb' 0 6, 0#1 ++ u0.extractLsb' 0 1 ++ u2.extractLsb' 0 6]] } } ∧
    exec (.decStdSingle u0 u1 u2) s = .next { s with env := { s.env with results := s.env.results ++
      [[0#1 ++ u0.extractLsb' 0 1 ++ u1.extractLsb' 0 6]] } } ∧
    exec (.decExtPair u0 u1 u2 u3) s = .next { s with env := { s.env with results := s.env.results ++
      [[0#1 ++ u1.extractLsb' 1 1 ++ u2.extractLsb' 0 6, 0#1 ++ u1.extractLsb' 0 1 ++ u3.extractLsb' 0 6]] } } ∧
    exec (.decExtSingle u0 u1 u2 u3) s = .next { s with env := { s.env with results := s.env.results ++
      [[0#1 ++ u1.extractLsb' 0 1 ++ u2.extractLsb' 0 6]] } }

/-- R93: the round trip, for 7-bit bytes and for arbitrary ones. -/
def Obligations.CodecRoundTrip : Prop :=
  ∀ (v : Variant) (b0 b1 : Byte),
    (b0.toNat ≤ 127 → b1.toNat ≤ 127 → dec (enc v b0 (some b1)) = [b0, b1]) ∧
    (b0.toNat ≤ 127 → dec (enc v b0 none) = [b0]) ∧
    dec (enc v b0 (some b1)) = [b0 &&& 0x7F#8, b1 &&& 0x7F#8] ∧
    dec (enc v b0 none) = [b0 &&& 0x7F#8]

/-- R94: ENC is injective on 7-bit inputs, with a present and an absent second byte counted as distinct. -/
def Obligations.EncodeIsInjective : Prop :=
  ∀ (v : Variant) (b0 c0 : Byte) (b1 c1 : Option Byte),
    b0.toNat ≤ 127 → c0.toNat ≤ 127 → (∀ x, b1 = some x → x.toNat ≤ 127) → (∀ x, c1 = some x → x.toNat ≤ 127) →
    enc v b0 b1 = enc v c0 c1 → b0 = c0 ∧ b1 = c1

/-- R86: bit 7 of an input byte is never read, on the datapath and at the port, and decoding returns the cleared byte. -/
def Obligations.HighBitOfInputIsIgnored : Prop :=
  (∀ (v : Variant) (b0 b1 : Byte),
    enc v b0 (some b1) = enc v (b0 &&& 0x7F#8) (some (b1 &&& 0x7F#8)) ∧
    enc v b0 none = enc v (b0 &&& 0x7F#8) none ∧
    dec (enc v b0 (some b1)) = [b0 &&& 0x7F#8, b1 &&& 0x7F#8] ∧ dec (enc v b0 none) = [b0 &&& 0x7F#8]) ∧
  (∀ (s t t' : State) (b : Byte),
    (exec (.pushEncFirst b) s = .next t → exec (.pushEncFirst (b &&& 0x7F#8)) s = .next t' → t.eng = t'.eng) ∧
    (exec (.pushEncSecond b) s = .next t → exec (.pushEncSecond (b &&& 0x7F#8)) s = .next t' → t.eng = t'.eng))

/-- R87, R92: the decoder's result for EVERY unit, well-formed or not, is a function of F, Q, D0 and, when F = 0, of P and D1: no
other bit has an effect. On malformed units this is the spec's own decision D10 (log entry 8). -/
def Obligations.DecoderReadsOnlyItsFields : Prop :=
  (∀ u : CodeUnit,
    dec u = if u.flag then [0#1 ++ u.fieldQ ++ u.fieldD0]
      else [0#1 ++ u.fieldP ++ u.fieldD0, 0#1 ++ u.fieldQ ++ u.fieldD1]) ∧
  (∀ u w : CodeUnit,
    u.flag = w.flag → u.fieldQ = w.fieldQ → u.fieldD0 = w.fieldD0 →
    (u.flag = false → u.fieldP = w.fieldP ∧ u.fieldD1 = w.fieldD1) → dec u = dec w)

/-- R96: every decoded byte has bit 7 clear, whatever the unit and whatever the stream. -/
def Obligations.DecodedBytesAreAscii : Prop :=
  (∀ (u : CodeUnit) (b : Byte), b ∈ dec u → b.getLsbD 7 = false) ∧
  (∀ (v : Variant) (t : List Byte) (b : Byte), b ∈ decodeStream v t → b.getLsbD 7 = false)

/-- R65: the code points of encoded units, read by the UTF-8 formula (log entry 16). -/
def Obligations.CodePointsOfEncodedUnits : Prop :=
  ∀ b0 b1 : Byte,
    (enc .std b0 (some b1)).codePoint =
      b0.toNat / 64 % 2 * 8192 + b1.toNat / 64 % 2 * 4096 + b0.toNat % 64 * 64 + b1.toNat % 64 ∧
    (enc .std b0 none).codePoint = 0x4000 + b0.toNat / 64 % 2 * 4096 + b0.toNat % 64 * 64 ∧
    (enc .ext b0 (some b1)).codePoint =
      0x10000 + b0.toNat / 64 % 2 * 8192 + b1.toNat / 64 % 2 * 4096 + b0.toNat % 64 * 64 + b1.toNat % 64 ∧
    (enc .ext b0 none).codePoint = 0x14000 + b0.toNat / 64 % 2 * 4096 + b0.toNat % 64 * 64

/-- R66: which emitted units are well-formed UTF-8 (log entry 16): all but the Standard pairs whose first byte is below 0x20 and
second below 0x40 after bit 7 is discarded. -/
def Obligations.OverlongStandardPairs : Prop :=
  ∀ b0 b1 : Byte,
    ((enc .std b0 (some b1)).isUtf8 = false ↔ b0.toNat % 128 < 0x20 ∧ b1.toNat % 128 < 0x40) ∧
    (enc .std b0 none).isUtf8 = true ∧ (enc .ext b0 (some b1)).isUtf8 = true ∧ (enc .ext b0 none).isUtf8 = true

/-! ### The stream steps: where each completes, and its effect on the engine -/

/-- R102: PUSH, ENC, first byte of a pair: the word that selects it, and its effect. Bit 7 of the byte is dropped. -/
def Obligations.PushEncFirstHoldsTheByte : Prop :=
  ∀ (s : State) (b : Byte),
    s.eng.phase = .run → s.eng.obuf = [] → s.eng.dir = .enc → s.eng.holdV = false →
    decode s.eng.selector (.inp (0b0#1 ++ b)) = .ok (.pushEncFirst b) ∧
    ∃ t, exec (.pushEncFirst b) s = .next t ∧
      t.eng = { s.eng with hold := b.extractLsb' 0 7, holdV := true } ∧ t.eng.status.getLsbD 7 = true

/-- R103: PUSH, ENC, second byte of a pair: the whole unit enters OBUF, and no input is accepted while it is there. -/
def Obligations.PushEncSecondEmitsTheUnit : Prop :=
  ∀ (s : State) (b : Byte),
    s.eng.phase = .run → s.eng.obuf = [] → s.eng.dir = .enc → s.eng.holdV = true →
    decode s.eng.selector (.inp (0b0#1 ++ b)) = .ok (.pushEncSecond b) ∧
    ∃ t, exec (.pushEncSecond b) s = .next t ∧
      t.eng = { s.eng with
        obuf := (enc s.eng.variant (s.eng.hold.setWidth 8) (some b)).bytes, holdV := false } ∧
      t.eng.obuf.length = s.eng.variant.width ∧
      (t.eng.status.extractLsb' 4 3).toNat = s.eng.variant.width ∧ ∀ p, t.eng.inReady p = false

/-- R104: EOS, ENC: a held byte leaves as the flagged unit; PHASE becomes DONE. -/
def Obligations.EosEncFlushesTheHeldByte : Prop :=
  ∀ (s : State) (x : Byte),
    s.eng.phase = .run → s.eng.obuf = [] → s.eng.dir = .enc →
    decode s.eng.selector (.inp (0b1#1 ++ x)) = .ok (.eosEnc x) ∧
    (s.eng.holdV = true → ∃ t, exec (.eosEnc x) s = .next t ∧
      t.eng = { s.eng with
        obuf := (enc s.eng.variant (s.eng.hold.setWidth 8) none).bytes, holdV := false, phase := .done } ∧
      t.eng.obuf.length = s.eng.variant.width) ∧
    (s.eng.holdV = false → ∃ t, exec (.eosEnc x) s = .next t ∧ t.eng = { s.eng with phase := .done })

/-- R105: PUSH, DEC, byte inside a unit: ACC[ACC_CNT] takes the byte, whatever its value. -/
def Obligations.PushDecPartialCollectsTheByte : Prop :=
  ∀ (s : State) (b : Byte),
    s.eng.phase = .run → s.eng.obuf = [] → s.eng.dir = .dec → s.eng.accCnt.toNat < s.eng.variant.width - 1 →
    decode s.eng.selector (.inp (0b0#1 ++ b)) = .ok (.pushDecPartial b) ∧
    ∃ t, exec (.pushDecPartial b) s = .next t ∧ t.eng.accCnt.toNat = s.eng.accCnt.toNat + 1 ∧
      t.eng = { s.eng with
        acc := (if s.eng.accCnt.toNat = 0 then { s.eng.acc with a0 := b }
          else if s.eng.accCnt.toNat = 1 then { s.eng.acc with a1 := b } else { s.eng.acc with a2 := b }),
        accCnt := s.eng.accCnt + 1#2 }

/-- R106: PUSH, DEC, last byte of a unit: the unit is decoded, malformed or not. -/
def Obligations.PushDecLastEmitsTheBytes : Prop :=
  ∀ (s : State) (b : Byte),
    s.eng.phase = .run → s.eng.obuf = [] → s.eng.dir = .dec → s.eng.accCnt.toNat = s.eng.variant.width - 1 →
    decode s.eng.selector (.inp (0b0#1 ++ b)) = .ok (.pushDecLast b) ∧
    ∃ t, exec (.pushDecLast b) s = .next t ∧
      t.eng = { s.eng with
        obuf := dec (match s.eng.variant with
          | .std => .std s.eng.acc.a0 s.eng.acc.a1 b
          | .ext => .ext s.eng.acc.a0 s.eng.acc.a1 s.eng.acc.a2 b),
        accCnt := 0#2 } ∧
      (t.eng.obuf.length = 1 ∨ t.eng.obuf.length = 2)

/-- R107, R131: EOS, DEC: a clean end, or TruncatedCharacter(k) with k = ACC_CNT. -/
def Obligations.EosDecEndsOrRaisesTruncated : Prop :=
  ∀ (s : State) (x : Byte),
    s.eng.phase = .run → s.eng.obuf = [] → s.eng.dir = .dec →
    decode s.eng.selector (.inp (0b1#1 ++ x)) = .ok (.eosDec x) ∧
    (s.eng.accCnt = 0#2 → ∃ t, exec (.eosDec x) s = .next t ∧ t.eng = { s.eng with phase := .done }) ∧
    (0 < s.eng.accCnt.toNat → s.eng.accCnt.toNat < s.eng.variant.width →
      ∃ t, exec (.eosDec x) s = .next t ∧
        t.eng = { s.eng with phase := .err, errK := s.eng.accCnt, accCnt := 0#2 })

/-- R108: POP, in any phase. The byte returned is the one the consumer's record takes (log entry 2). -/
def Obligations.PopTakesTheOldestByte : Prop :=
  ∀ (s : State) (b : Byte) (rest : List Byte),
    s.eng.obuf = b :: rest →
    exec .pop s = .next { s with
      eng := { s.eng with obuf := rest },
      env := { s.env with sink := s.env.sink ++ [b], output := s.env.output ++ [b] } }

/-- R109, R101: an offer that is not enabled moves nothing. That `exec` answers the unchanged state is the model's reading of "has no
step" (log entry 3). -/
def Obligations.DisabledOffersMoveNothing : Prop :=
  ∀ (s : State) (b : Byte),
    (s.eng.phase ≠ .run ∨ s.eng.obuf ≠ [] →
      exec (.pushEncFirst b) s = .next s ∧ exec (.pushEncSecond b) s = .next s ∧ exec (.eosEnc b) s = .next s ∧
      exec (.pushDecPartial b) s = .next s ∧ exec (.pushDecLast b) s = .next s ∧ exec (.eosDec b) s = .next s) ∧
    (s.eng.obuf = [] → exec .pop s = .next s)

/-- The rows of an IN word that the state does not select do nothing (log entry 4; R100, R101). -/
def Obligations.UnselectedInRowsDoNothing : Prop :=
  ∀ (s : State) (i : Instr) (w : BitVec 9),
    encode i = .inp w → s.eng.selector.admits i = false → exec i s = .next s

/-- A data byte a stream step accepts is recorded, and nothing else of the record changes (log entry 2). -/
def Obligations.AcceptedBytesAreRecorded : Prop :=
  ∀ (s : State) (b : Byte),
    s.eng.phase = .run → s.eng.obuf = [] →
    (s.eng.dir = .enc → s.eng.holdV = false → ∃ t, exec (.pushEncFirst b) s = .next t ∧
      t.env = { s.env with accepted := s.env.accepted ++ [b] }) ∧
    (s.eng.dir = .enc → s.eng.holdV = true → ∃ t, exec (.pushEncSecond b) s = .next t ∧
      t.env = { s.env with accepted := s.env.accepted ++ [b] }) ∧
    (s.eng.dir = .dec → s.eng.accCnt.toNat + 1 < s.eng.variant.width →
      ∃ t, exec (.pushDecPartial b) s = .next t ∧ t.env = { s.env with accepted := s.env.accepted ++ [b] }) ∧
    (s.eng.dir = .dec → s.eng.accCnt.toNat + 1 = s.eng.variant.width →
      ∃ t, exec (.pushDecLast b) s = .next t ∧ t.env = { s.env with accepted := s.env.accepted ++ [b] })

/-- R81, R87, R103, R106: the sequencer emits what the datapath row of its variant and form returns when run on its own. -/
def Obligations.SequencerEmitsTheRowsResult : Prop :=
  ∀ (s t : State) (b : Byte),
    (s.eng.canPushEncSecond = true → exec (.pushEncSecond b) s = .next t →
      (s.eng.variant = .std → ∃ r, exec (.encStdPair (s.eng.hold.setWidth 8) b) s = .next r ∧
        r.env.results = s.env.results ++ [t.eng.obuf]) ∧
      (s.eng.variant = .ext → ∃ r, exec (.encExtPair (s.eng.hold.setWidth 8) b) s = .next r ∧
        r.env.results = s.env.results ++ [t.eng.obuf])) ∧
    (s.eng.canEosEnc = true → s.eng.holdV = true → exec (.eosEnc b) s = .next t →
      (s.eng.variant = .std → ∃ r, exec (.encStdSingle (s.eng.hold.setWidth 8)) s = .next r ∧
        r.env.results = s.env.results ++ [t.eng.obuf]) ∧
      (s.eng.variant = .ext → ∃ r, exec (.encExtSingle (s.eng.hold.setWidth 8)) s = .next r ∧
        r.env.results = s.env.results ++ [t.eng.obuf])) ∧
    (s.eng.canPushDecLast = true → exec (.pushDecLast b) s = .next t →
      (s.eng.variant = .std → ∃ r, exec (decodeDecStd s.eng.acc.a0 s.eng.acc.a1 b) s = .next r ∧
        r.env.results = s.env.results ++ [t.eng.obuf]) ∧
      (s.eng.variant = .ext → ∃ r, exec (decodeDecExt s.eng.acc.a0 s.eng.acc.a1 s.eng.acc.a2 b) s = .next r ∧
        r.env.results = s.env.results ++ [t.eng.obuf]))

/-! ### Control -/

/-- R120: START, in every state: the word that selects it, and its effect. -/
def Obligations.StartOpensASession : Prop :=
  ∀ (s : State) (v : Variant) (d : Dir),
    decode s.eng.selector (.ctrl (0b01#2 ++ d.toBit ++ v.toBit)) = .ok (.start v d) ∧
    ∃ t, exec (.start v d) s = .next t ∧
      t.eng = { variant := v, dir := d, phase := .run, holdV := false, hold := 0#7, acc := ⟨0#8, 0#8, 0#8⟩,
                accCnt := 0#2, obuf := [], errK := 0#2 } ∧
      t.eng.status = 0#4 ++ 0b00#2 ++ 0b00#2 ++ 0b0#1 ++ 0b000#3 ++ d.toBit ++ v.toBit ++ 0b01#2

/-- R121, R23: RESET, in every state: every CTRL word with rst = 1 selects it, one with start = 1 too, and after it no input is
accepted. -/
def Obligations.ResetRestoresEveryElement : Prop :=
  ∀ (s : State) (x : BitVec 3),
    decode s.eng.selector (.ctrl (0b1#1 ++ x)) = .ok (.reset x) ∧
    ∃ t, exec (.reset x) s = .next t ∧
      t.eng = { variant := .std, dir := .enc, phase := .idle, holdV := false, hold := 0#7, acc := ⟨0#8, 0#8, 0#8⟩,
                accCnt := 0#2, obuf := [], errK := 0#2 } ∧
      t.eng.status = 0x0000#16 ∧ ∀ p, t.eng.inReady p = false

/-- R124: NOP: the word that selects it, and that it changes nothing. -/
def Obligations.NopChangesNothing : Prop :=
  ∀ (s : State) (x : BitVec 2),
    decode s.eng.selector (.ctrl (0b00#2 ++ x)) = .ok (.nop x) ∧ exec (.nop x) s = .next s

/-- R123: the STATUS read returns the word and changes no engine element. That the word is recorded in `env.statusSeen` is the model's
choice (log entry 2). -/
def Obligations.StatusReadReturnsTheWord : Prop :=
  ∀ s : State,
    exec .statusRead s = .next { s with env := { s.env with statusSeen := s.env.statusSeen ++
      [0#4 ++ s.eng.errK ++ s.eng.accCnt ++ BitVec.ofBool s.eng.holdV ++ BitVec.ofNat 3 s.eng.obuf.length ++
        s.eng.dir.toBit ++ s.eng.variant.toBit ++ s.eng.phase.toBits] } }

/-- R20: where each element stands in STATUS, bit position by bit position. -/
def Obligations.StatusFieldsShowTheElements : Prop :=
  ∀ e : Engine, e.obuf.length ≤ 4 →
    (e.status.extractLsb' 0 2).toNat =
      (match e.phase with | .idle => 0 | .run => 1 | .done => 2 | .err => 3) ∧
    e.status.getLsbD 2 = (e.variant == .ext) ∧ e.status.getLsbD 3 = (e.dir == .dec) ∧
    (e.status.extractLsb' 4 3).toNat = e.obuf.length ∧ e.status.getLsbD 7 = e.holdV ∧
    e.status.extractLsb' 8 2 = e.accCnt ∧ e.status.extractLsb' 10 2 = e.errK ∧ e.status.extractLsb' 12 4 = 0#4

/-- R71 (a), R68, R69: the ignored bits of a word have no effect. -/
def Obligations.IgnoredBitsHaveNoEffect : Prop :=
  ∀ (s : State) (x y : Byte) (r q : BitVec 3) (m n : BitVec 2),
    exec (.eosEnc x) s = exec (.eosEnc y) s ∧ exec (.eosDec x) s = exec (.eosDec y) s ∧
    exec (.reset r) s = exec (.reset q) s ∧ exec (.nop m) s = exec (.nop n) s

/-- What each operation leaves of the environment's record (log entry 2): nothing but POP reaches the consumer, so START and RESET give
it no byte and take none back (R155); only the datapath rows and the STATUS read return a value; none touches what is pending. -/
def Obligations.OperationsKeepTheRecord : Prop :=
  ∀ (i : Instr) (s t : State), exec i s = .next t →
    t.env.pending = s.env.pending ∧
    (i ≠ .pop → t.env.sink = s.env.sink) ∧
    (i ≠ .statusRead → t.env.statusSeen = s.env.statusSeen) ∧
    ((∀ u, encode i ≠ .unit u) → t.env.results = s.env.results) ∧
    ((∃ u, encode i = .unit u) ∨ i = .statusRead →
      t.eng = s.eng ∧ t.env.accepted = s.env.accepted ∧ t.env.output = s.env.output) ∧
    ((∃ v d, i = .start v d) ∨ (∃ x, i = .reset x) → t.env.accepted = [] ∧ t.env.output = []) ∧
    ((∃ x, i = .eosEnc x) ∨ (∃ x, i = .eosDec x) → t.env = s.env)

/-! ### Reset and the ports -/

/-- R23, R151: the state after reset; neither input nor output is possible, and no data step changes anything. -/
def Obligations.StateAfterReset : Prop :=
  State.reset.eng = { variant := .std, dir := .enc, phase := .idle, holdV := false, hold := 0#7,
                      acc := ⟨0#8, 0#8, 0#8⟩, accCnt := 0#2, obuf := [], errK := 0#2 } ∧
  State.reset.eng.status = 0x0000#16 ∧
  ∀ p : PortIn, State.reset.eng.inReady p = false ∧ State.reset.eng.outValid p = false

/-- R43, R44: the handshake outputs. -/
def Obligations.HandshakeOutputs : Prop :=
  ∀ (e : Engine) (p : PortIn),
    (e.inReady p = true ↔ e.phase = .run ∧ e.obuf.length = 0 ∧ p.rst = false ∧ p.start = false) ∧
    (e.outValid p = true ↔ 0 < e.obuf.length ∧ p.rst = false ∧ p.start = false) ∧
    (e.outValid p = true → ∃ rest, ∃ b, e.obuf = b :: rest ∧ e.outData p = some b)

/-- R42, R138: input and output are never possible at one step. -/
def Obligations.InAndOutNeverTogether : Prop :=
  ∀ (e : Engine) (p q : PortIn), ¬(e.inReady p = true ∧ e.outValid q = true)

/-! ### The step -/

/-- A step runs the operation its stimulus stands for, with that stimulus used up (R100, log entry 1). -/
def Obligations.StepRunsTheDecodedOperation : Prop :=
  ∀ (s : State) (x : Stimulus) (rest : List Stimulus) (i : Instr),
    s.env.pending = x :: rest → decode s.eng.selector (stimulusWord s.eng x) = .ok i →
    step s = exec i { s with env := { s.env with pending := rest } }

/-- R42 'none', R160: with no event the state is unchanged (log entry 1). -/
def Obligations.NoEventChangesNothing : Prop :=
  ∀ s : State, s.env.pending = [] → step s = .next s

/-- R42, R138: which event the ports make a step take: RESET, then START, then an accepted input, then an accepted output, else none.
The row of an accepted input is the one R100 gives. The port inputs come from `pending` (log entry 1). -/
def Obligations.PortsChooseTheEventByPriority : Prop :=
  ∀ (s u : State) (p : PortIn) (rest : List Stimulus),
    s.env.pending = .ports p :: rest → u = { s with env := { s.env with pending := rest } } →
    (p.rst = true → ∃ x, step s = exec (.reset x) u) ∧
    (p.rst = false → p.start = true →
      step s = exec (.start (if p.cfgVariant = 1#1 then .ext else .std) (if p.cfgDir = 1#1 then .dec else .enc)) u) ∧
    (p.rst = false → p.start = false → p.inValid = true → s.eng.phase = .run → s.eng.obuf = [] →
      (p.inEos = true → s.eng.dir = .enc → step s = exec (.eosEnc p.inData) u) ∧
      (p.inEos = true → s.eng.dir = .dec → step s = exec (.eosDec p.inData) u) ∧
      (p.inEos = false → s.eng.dir = .enc → s.eng.holdV = false → step s = exec (.pushEncFirst p.inData) u) ∧
      (p.inEos = false → s.eng.dir = .enc → s.eng.holdV = true → step s = exec (.pushEncSecond p.inData) u) ∧
      (p.inEos = false → s.eng.dir = .dec → s.eng.accCnt.toNat + 1 < s.eng.variant.width →
        step s = exec (.pushDecPartial p.inData) u) ∧
      (p.inEos = false → s.eng.dir = .dec → s.eng.accCnt.toNat + 1 = s.eng.variant.width →
        step s = exec (.pushDecLast p.inData) u)) ∧
    (p.rst = false → p.start = false → p.outReady = true → s.eng.obuf ≠ [] → step s = exec .pop u) ∧
    (p.rst = false → p.start = false → (p.inValid = false ∨ s.eng.phase ≠ .run ∨ s.eng.obuf ≠ []) →
      (p.outReady = false ∨ s.eng.obuf = []) → step s = .next u)

/-- Where a step stops, and that it stops nowhere else (log entries 5 and 17): a datapath unit that has not N bytes, an encode
operation named by a unit outside the forms of R63, and a data byte where ACC_CNT is above N-1. -/
def Obligations.StepStopsOnlyAtTheseStimuli : Prop :=
  ∀ (s : State) (x : Stimulus) (rest : List Stimulus), s.env.pending = x :: rest →
    (step s = .refused .unitLength ↔ ∃ u, x = .unit u ∧ u.length ≠ s.eng.variant.width) ∧
    (step s = .refused .unitForm ↔ s.eng.dir = .enc ∧ ∃ w : CodeUnit,
      x = .unit w.bytes ∧ w.variant = s.eng.variant ∧ ∀ f, w.hasForm f = false) ∧
    (step s = .fault .accCountBeyondUnit ↔ s.eng.phase = .run ∧ s.eng.obuf = [] ∧ s.eng.dir = .dec ∧
      s.eng.variant.width ≤ s.eng.accCnt.toNat ∧
      ∃ p : PortIn, x = .ports p ∧ p.rst = false ∧ p.start = false ∧ p.inValid = true ∧ p.inEos = false) ∧
    (∀ m, step s ≠ .refused (.notModelled m))

/-- A row placed by `State.stage` is the one the very next step runs, for every well-formed operation (log entry 7). -/
def Obligations.StagedRowRunsNext : Prop :=
  ∀ (s : State) (i : Instr), i.wellFormed = true →
    step (s.stage i) = exec i { s with eng := s.eng.enable i } ∧ (s.eng.enable i).selector.admits i = true

/-- `exec` answers a next state for every operation, in every state, with any operands. Where the row is enabled that is the spec's (R95,
R135, R140: nothing faults or is refused). On a disabled row, on a row the state does not select, and on EOS_DEC with ACC_CNT above N-1, that
it answers one is the model's choice (log entries 3, 4 and 5); so it is for a datapath row run on its own (log entry 6). -/
def Obligations.EveryOperationAnswersNext : Prop :=
  ∀ (i : Instr) (s : State), ∃ t, exec i s = .next t

/-! ### Rules of the whole machine -/

/-- R21, R17, R19, R18: the engine's invariant is kept by every step, from every state that has it. -/
def Obligations.SoundEngineKeptByStep : Prop :=
  ∀ s t : State, s.eng.Sound → step s = .next t → t.eng.Sound

/-- The state after reset has the engine's invariant. -/
def Obligations.SoundEngineAtReset : Prop := State.reset.eng.Sound

/-- R48, R114, R45 to R47, R16, R17: at every step, on any schedule, the consumer's bytes and OBUF are the encoding or decoding of the bytes
accepted. The accepted and output bytes are the model's record (log entry 2). -/
def Obligations.FaithfulStreamKeptByStep : Prop :=
  ∀ s t : State, s.eng.Sound → s.Faithful → step s = .next t → t.Faithful

/-- The state after reset has the stream invariant. -/
def Obligations.FaithfulStreamAtReset : Prop := State.reset.Faithful

/-- R111, R113, R114: an ended encode session has put out exactly the encoding of its input, ceil(n/2) * N bytes. -/
def Obligations.EndedEncodeSessionOutput : Prop :=
  ∀ s : State, s.eng.Sound → s.Faithful → s.ended = true → s.eng.dir = .enc →
    s.eng.phase = .done ∧ s.env.output = encodeStream s.eng.variant s.env.accepted ∧
    s.env.output.length = (s.env.accepted.length + 1) / 2 * s.eng.variant.width

/-- R112, R113, R114: an ended decode session has put out the decoding of its complete units, two bytes each less one per flagged unit, and is DONE
or in ERR with ERR_K = m mod N. -/
def Obligations.EndedDecodeSessionOutput : Prop :=
  ∀ s : State, s.eng.Sound → s.Faithful → s.ended = true → s.eng.dir = .dec →
    s.env.output = decodeStream s.eng.variant s.env.accepted ∧
    s.env.output.length + flaggedUnits s.eng.variant s.env.accepted =
      s.env.accepted.length / s.eng.variant.width * 2 ∧
    (s.env.accepted.length % s.eng.variant.width = 0 → s.eng.phase = .done ∧ s.eng.errK = 0#2) ∧
    (s.env.accepted.length % s.eng.variant.width ≠ 0 →
      s.eng.phase = .err ∧ s.eng.errK.toNat = s.env.accepted.length % s.eng.variant.width)

/-- R114, R93: decoding an encoded stream gives the stream back, bit 7 cleared. -/
def Obligations.StreamRoundTrip : Prop :=
  ∀ (v : Variant) (xs : List Byte),
    decodeStream v (encodeStream v xs) = xs.map (fun b => b &&& 0x7F#8) ∧
    ((∀ b ∈ xs, b.toNat ≤ 127) → decodeStream v (encodeStream v xs) = xs)

/-- R13, R14, R122: nothing but START and RESET changes the configuration. -/
def Obligations.ConfigurationFixedWithinASession : Prop :=
  ∀ (i : Instr) (s t : State), exec i s = .next t → (∀ v d, i ≠ .start v d) → (∀ x, i ≠ .reset x) →
    t.eng.variant = s.eng.variant ∧ t.eng.dir = s.eng.dir

/-- R10, "written by", for each of its nine elements: apart from START and RESET, which write every element, an element is changed only by
its own operations, and CFG by none. -/
def Obligations.ElementsChangedOnlyByTheirWriters : Prop :=
  ∀ (i : Instr) (s t : State), exec i s = .next t → (∀ v d, i ≠ .start v d) → (∀ x, i ≠ .reset x) →
    t.eng.variant = s.eng.variant ∧ t.eng.dir = s.eng.dir ∧
    (t.eng.phase ≠ s.eng.phase → ∃ b, i = .eosEnc b ∨ i = .eosDec b) ∧
    (t.eng.hold ≠ s.eng.hold → ∃ b, i = .pushEncFirst b) ∧
    (t.eng.holdV ≠ s.eng.holdV → ∃ b, i = .pushEncFirst b ∨ i = .pushEncSecond b ∨ i = .eosEnc b) ∧
    (t.eng.acc ≠ s.eng.acc → ∃ b, i = .pushDecPartial b) ∧
    (t.eng.accCnt ≠ s.eng.accCnt → ∃ b, i = .pushDecPartial b ∨ i = .pushDecLast b ∨ i = .eosDec b) ∧
    (t.eng.obuf ≠ s.eng.obuf → i = .pop ∨ ∃ b, i = .pushEncSecond b ∨ i = .eosEnc b ∨ i = .pushDecLast b) ∧
    (t.eng.errK ≠ s.eng.errK → ∃ b, i = .eosDec b)

/-- R15, R101: the transitions of PHASE are exactly these. An EOS of the session's direction is accepted in RUN with OBUF empty, and there
it always leaves RUN; the last case is every other operation and every EOS that is not accepted. -/
def Obligations.PhaseTransitions : Prop :=
  ∀ (i : Instr) (s t : State), exec i s = .next t →
    ((∃ x, i = .reset x) ∧ t.eng.phase = .idle) ∨
    ((∃ v d, i = .start v d) ∧ t.eng.phase = .run) ∨
    (s.eng.phase = .run ∧ s.eng.obuf = [] ∧ ((∃ x, i = .eosEnc x) ∧ s.eng.dir = .enc ∨
        (∃ x, i = .eosDec x) ∧ s.eng.dir = .dec ∧ s.eng.accCnt = 0#2) ∧ t.eng.phase = .done) ∨
    (s.eng.phase = .run ∧ s.eng.obuf = [] ∧ (∃ x, i = .eosDec x) ∧ s.eng.dir = .dec ∧ 0 < s.eng.accCnt.toNat ∧
      t.eng.phase = .err ∧ t.eng.errK = s.eng.accCnt) ∨
    ((∀ x, i ≠ .reset x) ∧ (∀ v d, i ≠ .start v d) ∧
      ¬(s.eng.phase = .run ∧ s.eng.obuf = [] ∧
        ((∃ x, i = .eosEnc x) ∧ s.eng.dir = .enc ∨ (∃ x, i = .eosDec x) ∧ s.eng.dir = .dec)) ∧
      t.eng.phase = s.eng.phase)

/-- R133: the error is sticky, and only START or RESET leaves it; each clears ERR_K. -/
def Obligations.ErrorLeftOnlyByStartOrReset : Prop :=
  ∀ (i : Instr) (s t : State), s.eng.phase = .err → exec i s = .next t →
    ((∀ v d, i ≠ .start v d) → (∀ x, i ≠ .reset x) →
      t.eng.phase = .err ∧ t.eng.errK = s.eng.errK ∧ t.env.accepted = s.env.accepted) ∧
    ((∃ v d, i = .start v d) ∨ (∃ x, i = .reset x) → t.eng.phase ≠ .err ∧ t.eng.errK = 0#2)

/-- R110: after EOS no input is accepted in that session, in either direction: OBUF only drains. -/
def Obligations.NoInputAfterEndOfStream : Prop :=
  ∀ (i : Instr) (s t : State), s.eng.phase = .done ∨ s.eng.phase = .err → exec i s = .next t →
    (∀ v d, i ≠ .start v d) → (∀ x, i ≠ .reset x) →
    t.eng.phase = s.eng.phase ∧ t.env.accepted = s.env.accepted ∧
    ∃ popped, s.eng.obuf = popped ++ t.eng.obuf ∧ t.env.output = s.env.output ++ popped

/-- The engine's next state never depends on the model's own record (R10, R25; log entries 1 and 2). -/
def Obligations.EngineIgnoresTheRecord : Prop :=
  ∀ (i : Instr) (s s' t t' : State), s.eng = s'.eng → exec i s = .next t → exec i s' = .next t' → t.eng = t'.eng

/-- R115: an empty session, in either direction, ends in DONE with no output. -/
def Obligations.EmptySessionHasNoOutput : Prop :=
  ∀ (s : State) (v : Variant) (x : Byte),
    (∃ t u, exec (.start v .enc) s = .next t ∧ exec (.eosEnc x) t = .next u ∧
      u.eng.phase = .done ∧ u.eng.obuf = [] ∧ u.env.output = []) ∧
    (∃ t u, exec (.start v .dec) s = .next t ∧ exec (.eosDec x) t = .next u ∧
      u.eng.phase = .done ∧ u.eng.obuf = [] ∧ u.env.output = [])

/-- R114, R117: from every state, an encode session offered its whole input, with the output taken as it comes, ends in exactly
n + 1 + ceil(n/2) * N steps after START, in DONE, with the encoding of its input as output. This is a bounded run on one schedule for each
input, in which no step is idle (FairSessionsEnd is over every fair host). The schedule stands in `pending` (log entry 1); the accepted, output
and consumer's bytes are the model's record (log entry 2). -/
def Obligations.EncodeSessionEnds : Prop :=
  ∀ (v : Variant) (xs : List Byte) (s : State),
    s.env.pending = offerStart v .enc :: encodeSchedule v xs →
    ∃ t, Host.Core.run Sys2Proof.core (1 + (xs.length + 1 + (xs.length + 1) / 2 * v.width)) s = .next t ∧
      t.env.pending = [] ∧ t.eng.phase = .done ∧ t.eng.obuf = [] ∧ t.eng.variant = v ∧ t.eng.dir = .enc ∧
      t.env.accepted = xs ∧ t.env.output = encodeStream v xs ∧
      t.env.sink = s.env.sink ++ encodeStream v xs

/-- R114, R117: from every state, a decode session offered its whole input, with the output taken as it comes, ends in exactly m + 1 plus the number
of output bytes steps after START: in DONE, or in ERR with ERR_K = m mod N, with the decoding of its complete units as output. This is a bounded run on one
schedule for each input, in which no step is idle (FairSessionsEnd is over every fair host). The schedule stands in `pending` (log entry 1); the
accepted, output and consumer's bytes are the model's record (log entry 2); the decoding of malformed units is R92's decision D10 (log
entry 8). -/
def Obligations.DecodeSessionEnds : Prop :=
  ∀ (v : Variant) (xs : List Byte) (s : State),
    s.env.pending = offerStart v .dec :: decodeSchedule v xs →
    ∃ t, Host.Core.run Sys2Proof.core (1 + (xs.length + 1 + (decodeStream v xs).length)) s = .next t ∧
      t.env.pending = [] ∧ t.eng.obuf = [] ∧ t.eng.variant = v ∧ t.eng.dir = .dec ∧
      t.env.accepted = xs ∧ t.env.output = decodeStream v xs ∧ t.env.sink = s.env.sink ++ decodeStream v xs ∧
      (xs.length % v.width = 0 → t.eng.phase = .done ∧ t.eng.errK = 0#2) ∧
      (xs.length % v.width ≠ 0 → t.eng.phase = .err ∧ t.eng.errK.toNat = xs.length % v.width)

/-- R161, R117, R114: against EVERY host whose producer and consumer are weakly fair, a session with finite input ends and stays ended, and wherever it has ended: the
input accepted, its encoding or decoding put out, in DONE or in ERR with ERR_K = m mod N. Idle steps, held offers and STATUS reads may stand
anywhere. The host is one stimulus a step (log entries 1 and 19); the accepted, output and consumer's bytes are the model's record (log entry
2); the decoding of malformed units is R92's decision D10 (log entry 8). -/
def Obligations.FairSessionsEnd : Prop :=
  ∀ (v : Variant) (d : Dir) (input : List Byte) (s : State) (host : Nat → Stimulus) (run : Nat → State),
    exec (.start v d) s = .next (run 0) → IsRun host run → FairHost input host run →
    Terminates run ∧ ∀ m, (run m).ended = true → (run m).eng.variant = v ∧ (run m).eng.dir = d ∧
      (run m).env.accepted = input ∧ (run m).env.output = sessionOutput v d input ∧
      (run m).env.sink = s.env.sink ++ sessionOutput v d input ∧
      (d = .enc ∨ input.length % v.width = 0 → (run m).eng.phase = .done ∧ (run m).eng.errK = 0#2) ∧
      (d = .dec → input.length % v.width ≠ 0 →
        (run m).eng.phase = .err ∧ (run m).eng.errK.toNat = input.length % v.width)

/-- R161, R109: without the fairness the session does not end, while the controller is silent (log entry 19). With a consumer that never takes
a byte the engine stands for ever as it is with OBUF nonempty; with a producer that never offers it stands for ever in RUN. -/
def Obligations.UnfairHostsAreWaitedForForEver : Prop :=
  ∀ (host : Nat → Stimulus) (run : Nat → State) (k : Nat), IsRun host run → NoControl host →
    ((run k).eng.obuf ≠ [] → (∀ j, k ≤ j → (host j).portIn.outReady = false) →
      (∀ j, k ≤ j → (run j).eng = (run k).eng) ∧ ¬Terminates run) ∧
    ((run k).eng.phase = .run → (run k).eng.obuf = [] → (∀ j, k ≤ j → (host j).portIn.inValid = false) →
      (∀ j, k ≤ j → (run j).eng = (run k).eng) ∧ ¬Terminates run)
end

