-- ==== Sys2Proof/Laws/Codec.lean ====
section
/-! SUPPORT. Laws/Codec: the small lemmas of the bit fields and of the unit's bytes: what a lane, a continuation byte and a
concatenated lead byte give back when their fields are read, and how long units and decoded groups are. -/

namespace Sys2Proof

theorem bitAt_six_lane : ∀ (h : BitVec 1) (d : BitVec 6), bitAt (lane h d) 6 = h := by decide

theorem low6_lane : ∀ (h : BitVec 1) (d : BitVec 6), low6 (lane h d) = d := by decide

theorem lane_sevenBit : ∀ (h : BitVec 1) (d : BitVec 6), Byte.sevenBit (lane h d) = true := by decide

theorem low6_continuation : ∀ d : BitVec 6, low6 (continuation d) = d := by decide

theorem isContinuation_continuation : ∀ d : BitVec 6, isContinuation (continuation d) = true := by decide

theorem continuation_low6_of_isContinuation :
    ∀ b : Byte, isContinuation b = true → continuation (low6 b) = b := by decide

/-- A byte is its bit 7, bit 6 and low bits; without bit 7 it is the lane of the other two. -/
theorem lane_of_fields : ∀ b : Byte, lane (bitAt b 6) (low6 b) = b &&& 0x7F#8 := by decide

theorem lane_of_sevenBit : ∀ b : Byte, Byte.sevenBit b = true → lane (bitAt b 6) (low6 b) = b := by decide

/-- The mask reading of bit 6 (R97) as a concatenation. -/
theorem bit6_eq_zext : ∀ b : Byte, bit6 b = (bitAt b 6).setWidth 8 := by decide

/-- The mask reading of the low bits (R97), under the continuation pattern. -/
theorem continuation_eq_or : ∀ b : Byte, 0x80#8 ||| low6Byte b = continuation (low6 b) := by decide

namespace Machine

theorem enc_bytes_length (v : Variant) (b0 : Byte) (o : Option Byte) : (enc v b0 o).bytes.length = v.width := by
  cases v <;> cases o <;> rfl

theorem enc_variant (v : Variant) (b0 : Byte) (o : Option Byte) : (enc v b0 o).variant = v := by
  cases v <;> cases o <;> rfl

/-- A decoded group has one byte where F = 1 and two where F = 0 (R87). -/
theorem dec_length (u : CodeUnit) : (dec u).length = if u.flag then 1 else 2 := by
  cases u <;> simp only [dec, CodeUnit.flag, CodeUnit.lead] <;> split <;>
    simp_all [decStdSingle, decStdPair, decExtSingle, decExtPair]

theorem collected_variant (e : Engine) (b : Byte) : (e.collected b).variant = e.variant := by
  unfold Engine.collected; cases e.variant <;> rfl

end Machine

end Sys2Proof
end

