-- ==== Sys2Proof/Laws/State.lean ====
section
/-! SUPPORT. Laws/State: one lemma per field for every named operation of Machine/Ops.lean, so that no later proof unfolds a
record update. -/

namespace Sys2Proof.Machine

/-! ### Engine.holdFirst -/

@[simp] theorem Engine.holdFirst_variant (e : Engine) (b : Byte) : (e.holdFirst b).variant = e.variant := rfl
@[simp] theorem Engine.holdFirst_dir (e : Engine) (b : Byte) : (e.holdFirst b).dir = e.dir := rfl
@[simp] theorem Engine.holdFirst_phase (e : Engine) (b : Byte) : (e.holdFirst b).phase = e.phase := rfl
@[simp] theorem Engine.holdFirst_holdV (e : Engine) (b : Byte) : (e.holdFirst b).holdV = true := rfl
@[simp] theorem Engine.holdFirst_hold (e : Engine) (b : Byte) : (e.holdFirst b).hold = heldBits b := rfl
@[simp] theorem Engine.holdFirst_acc (e : Engine) (b : Byte) : (e.holdFirst b).acc = e.acc := rfl
@[simp] theorem Engine.holdFirst_accCnt (e : Engine) (b : Byte) : (e.holdFirst b).accCnt = e.accCnt := rfl
@[simp] theorem Engine.holdFirst_obuf (e : Engine) (b : Byte) : (e.holdFirst b).obuf = e.obuf := rfl
@[simp] theorem Engine.holdFirst_errK (e : Engine) (b : Byte) : (e.holdFirst b).errK = e.errK := rfl

/-! ### Engine.releaseHold -/

@[simp] theorem Engine.releaseHold_variant (e : Engine) : (e.releaseHold).variant = e.variant := rfl
@[simp] theorem Engine.releaseHold_dir (e : Engine) : (e.releaseHold).dir = e.dir := rfl
@[simp] theorem Engine.releaseHold_phase (e : Engine) : (e.releaseHold).phase = e.phase := rfl
@[simp] theorem Engine.releaseHold_holdV (e : Engine) : (e.releaseHold).holdV = false := rfl
@[simp] theorem Engine.releaseHold_hold (e : Engine) : (e.releaseHold).hold = e.hold := rfl
@[simp] theorem Engine.releaseHold_acc (e : Engine) : (e.releaseHold).acc = e.acc := rfl
@[simp] theorem Engine.releaseHold_accCnt (e : Engine) : (e.releaseHold).accCnt = e.accCnt := rfl
@[simp] theorem Engine.releaseHold_obuf (e : Engine) : (e.releaseHold).obuf = e.obuf := rfl
@[simp] theorem Engine.releaseHold_errK (e : Engine) : (e.releaseHold).errK = e.errK := rfl

/-! ### Engine.collect -/

@[simp] theorem Engine.collect_variant (e : Engine) (b : Byte) : (e.collect b).variant = e.variant := rfl
@[simp] theorem Engine.collect_dir (e : Engine) (b : Byte) : (e.collect b).dir = e.dir := rfl
@[simp] theorem Engine.collect_phase (e : Engine) (b : Byte) : (e.collect b).phase = e.phase := rfl
@[simp] theorem Engine.collect_holdV (e : Engine) (b : Byte) : (e.collect b).holdV = e.holdV := rfl
@[simp] theorem Engine.collect_hold (e : Engine) (b : Byte) : (e.collect b).hold = e.hold := rfl
@[simp] theorem Engine.collect_acc (e : Engine) (b : Byte) : (e.collect b).acc = e.acc.set e.accCnt b := rfl
@[simp] theorem Engine.collect_accCnt (e : Engine) (b : Byte) : (e.collect b).accCnt = e.accCnt + 1#2 := rfl
@[simp] theorem Engine.collect_obuf (e : Engine) (b : Byte) : (e.collect b).obuf = e.obuf := rfl
@[simp] theorem Engine.collect_errK (e : Engine) (b : Byte) : (e.collect b).errK = e.errK := rfl

/-! ### Engine.releaseAcc -/

@[simp] theorem Engine.releaseAcc_variant (e : Engine) : (e.releaseAcc).variant = e.variant := rfl
@[simp] theorem Engine.releaseAcc_dir (e : Engine) : (e.releaseAcc).dir = e.dir := rfl
@[simp] theorem Engine.releaseAcc_phase (e : Engine) : (e.releaseAcc).phase = e.phase := rfl
@[simp] theorem Engine.releaseAcc_holdV (e : Engine) : (e.releaseAcc).holdV = e.holdV := rfl
@[simp] theorem Engine.releaseAcc_hold (e : Engine) : (e.releaseAcc).hold = e.hold := rfl
@[simp] theorem Engine.releaseAcc_acc (e : Engine) : (e.releaseAcc).acc = e.acc := rfl
@[simp] theorem Engine.releaseAcc_accCnt (e : Engine) : (e.releaseAcc).accCnt = 0#2 := rfl
@[simp] theorem Engine.releaseAcc_obuf (e : Engine) : (e.releaseAcc).obuf = e.obuf := rfl
@[simp] theorem Engine.releaseAcc_errK (e : Engine) : (e.releaseAcc).errK = e.errK := rfl

/-! ### Engine.emit -/

@[simp] theorem Engine.emit_variant (e : Engine) (xs : List Byte) : (e.emit xs).variant = e.variant := rfl
@[simp] theorem Engine.emit_dir (e : Engine) (xs : List Byte) : (e.emit xs).dir = e.dir := rfl
@[simp] theorem Engine.emit_phase (e : Engine) (xs : List Byte) : (e.emit xs).phase = e.phase := rfl
@[simp] theorem Engine.emit_holdV (e : Engine) (xs : List Byte) : (e.emit xs).holdV = e.holdV := rfl
@[simp] theorem Engine.emit_hold (e : Engine) (xs : List Byte) : (e.emit xs).hold = e.hold := rfl
@[simp] theorem Engine.emit_acc (e : Engine) (xs : List Byte) : (e.emit xs).acc = e.acc := rfl
@[simp] theorem Engine.emit_accCnt (e : Engine) (xs : List Byte) : (e.emit xs).accCnt = e.accCnt := rfl
@[simp] theorem Engine.emit_obuf (e : Engine) (xs : List Byte) : (e.emit xs).obuf = e.obuf ++ xs := rfl
@[simp] theorem Engine.emit_errK (e : Engine) (xs : List Byte) : (e.emit xs).errK = e.errK := rfl

/-! ### Engine.dropHead -/

@[simp] theorem Engine.dropHead_variant (e : Engine) : (e.dropHead).variant = e.variant := rfl
@[simp] theorem Engine.dropHead_dir (e : Engine) : (e.dropHead).dir = e.dir := rfl
@[simp] theorem Engine.dropHead_phase (e : Engine) : (e.dropHead).phase = e.phase := rfl
@[simp] theorem Engine.dropHead_holdV (e : Engine) : (e.dropHead).holdV = e.holdV := rfl
@[simp] theorem Engine.dropHead_hold (e : Engine) : (e.dropHead).hold = e.hold := rfl
@[simp] theorem Engine.dropHead_acc (e : Engine) : (e.dropHead).acc = e.acc := rfl
@[simp] theorem Engine.dropHead_accCnt (e : Engine) : (e.dropHead).accCnt = e.accCnt := rfl
@[simp] theorem Engine.dropHead_obuf (e : Engine) : (e.dropHead).obuf = e.obuf.tail := rfl
@[simp] theorem Engine.dropHead_errK (e : Engine) : (e.dropHead).errK = e.errK := rfl

/-! ### Engine.finish -/

@[simp] theorem Engine.finish_variant (e : Engine) : (e.finish).variant = e.variant := rfl
@[simp] theorem Engine.finish_dir (e : Engine) : (e.finish).dir = e.dir := rfl
@[simp] theorem Engine.finish_phase (e : Engine) : (e.finish).phase = .done := rfl
@[simp] theorem Engine.finish_holdV (e : Engine) : (e.finish).holdV = e.holdV := rfl
@[simp] theorem Engine.finish_hold (e : Engine) : (e.finish).hold = e.hold := rfl
@[simp] theorem Engine.finish_acc (e : Engine) : (e.finish).acc = e.acc := rfl
@[simp] theorem Engine.finish_accCnt (e : Engine) : (e.finish).accCnt = e.accCnt := rfl
@[simp] theorem Engine.finish_obuf (e : Engine) : (e.finish).obuf = e.obuf := rfl
@[simp] theorem Engine.finish_errK (e : Engine) : (e.finish).errK = e.errK := rfl

/-! ### Engine.raiseTruncated -/

@[simp] theorem Engine.raiseTruncated_variant (e : Engine) (k : BitVec 2) : (e.raiseTruncated k).variant = e.variant := rfl
@[simp] theorem Engine.raiseTruncated_dir (e : Engine) (k : BitVec 2) : (e.raiseTruncated k).dir = e.dir := rfl
@[simp] theorem Engine.raiseTruncated_phase (e : Engine) (k : BitVec 2) : (e.raiseTruncated k).phase = .err := rfl
@[simp] theorem Engine.raiseTruncated_holdV (e : Engine) (k : BitVec 2) : (e.raiseTruncated k).holdV = e.holdV := rfl
@[simp] theorem Engine.raiseTruncated_hold (e : Engine) (k : BitVec 2) : (e.raiseTruncated k).hold = e.hold := rfl
@[simp] theorem Engine.raiseTruncated_acc (e : Engine) (k : BitVec 2) : (e.raiseTruncated k).acc = e.acc := rfl
@[simp] theorem Engine.raiseTruncated_accCnt (e : Engine) (k : BitVec 2) : (e.raiseTruncated k).accCnt = 0#2 := rfl
@[simp] theorem Engine.raiseTruncated_obuf (e : Engine) (k : BitVec 2) : (e.raiseTruncated k).obuf = e.obuf := rfl
@[simp] theorem Engine.raiseTruncated_errK (e : Engine) (k : BitVec 2) : (e.raiseTruncated k).errK = k := rfl

/-! ### Engine.openSession -/

@[simp] theorem Engine.openSession_variant (e : Engine) (v : Variant) (d : Dir) : (e.openSession v d).variant = v := rfl
@[simp] theorem Engine.openSession_dir (e : Engine) (v : Variant) (d : Dir) : (e.openSession v d).dir = d := rfl
@[simp] theorem Engine.openSession_phase (e : Engine) (v : Variant) (d : Dir) : (e.openSession v d).phase = .run := rfl
@[simp] theorem Engine.openSession_holdV (e : Engine) (v : Variant) (d : Dir) : (e.openSession v d).holdV = false := rfl
@[simp] theorem Engine.openSession_hold (e : Engine) (v : Variant) (d : Dir) : (e.openSession v d).hold = 0#7 := rfl
@[simp] theorem Engine.openSession_acc (e : Engine) (v : Variant) (d : Dir) : (e.openSession v d).acc = ⟨0#8, 0#8, 0#8⟩ := rfl
@[simp] theorem Engine.openSession_accCnt (e : Engine) (v : Variant) (d : Dir) : (e.openSession v d).accCnt = 0#2 := rfl
@[simp] theorem Engine.openSession_obuf (e : Engine) (v : Variant) (d : Dir) : (e.openSession v d).obuf = [] := rfl
@[simp] theorem Engine.openSession_errK (e : Engine) (v : Variant) (d : Dir) : (e.openSession v d).errK = 0#2 := rfl

/-! ### Engine.toReset -/

@[simp] theorem Engine.toReset_variant (e : Engine) : (e.toReset).variant = .std := rfl
@[simp] theorem Engine.toReset_dir (e : Engine) : (e.toReset).dir = .enc := rfl
@[simp] theorem Engine.toReset_phase (e : Engine) : (e.toReset).phase = .idle := rfl
@[simp] theorem Engine.toReset_holdV (e : Engine) : (e.toReset).holdV = false := rfl
@[simp] theorem Engine.toReset_hold (e : Engine) : (e.toReset).hold = 0#7 := rfl
@[simp] theorem Engine.toReset_acc (e : Engine) : (e.toReset).acc = ⟨0#8, 0#8, 0#8⟩ := rfl
@[simp] theorem Engine.toReset_accCnt (e : Engine) : (e.toReset).accCnt = 0#2 := rfl
@[simp] theorem Engine.toReset_obuf (e : Engine) : (e.toReset).obuf = [] := rfl
@[simp] theorem Engine.toReset_errK (e : Engine) : (e.toReset).errK = 0#2 := rfl

/-! ### State.setEng -/

@[simp] theorem State.setEng_eng (s : State) (e : Engine) : (s.setEng e).eng = e := rfl
@[simp] theorem State.setEng_env (s : State) (e : Engine) : (s.setEng e).env = s.env := rfl

/-! ### State.setPending -/

@[simp] theorem State.setPending_eng (s : State) (rest : List Stimulus) : (s.setPending rest).eng = s.eng := rfl
@[simp] theorem State.setPending_pending (s : State) (rest : List Stimulus) : (s.setPending rest).env.pending = rest := rfl
@[simp] theorem State.setPending_sink (s : State) (rest : List Stimulus) : (s.setPending rest).env.sink = s.env.sink := rfl
@[simp] theorem State.setPending_accepted (s : State) (rest : List Stimulus) : (s.setPending rest).env.accepted = s.env.accepted := rfl
@[simp] theorem State.setPending_output (s : State) (rest : List Stimulus) : (s.setPending rest).env.output = s.env.output := rfl
@[simp] theorem State.setPending_results (s : State) (rest : List Stimulus) : (s.setPending rest).env.results = s.env.results := rfl
@[simp] theorem State.setPending_statusSeen (s : State) (rest : List Stimulus) : (s.setPending rest).env.statusSeen = s.env.statusSeen := rfl

/-! ### State.recordAccepted -/

@[simp] theorem State.recordAccepted_eng (s : State) (b : Byte) : (s.recordAccepted b).eng = s.eng := rfl
@[simp] theorem State.recordAccepted_pending (s : State) (b : Byte) : (s.recordAccepted b).env.pending = s.env.pending := rfl
@[simp] theorem State.recordAccepted_sink (s : State) (b : Byte) : (s.recordAccepted b).env.sink = s.env.sink := rfl
@[simp] theorem State.recordAccepted_accepted (s : State) (b : Byte) : (s.recordAccepted b).env.accepted = s.env.accepted ++ [b] := rfl
@[simp] theorem State.recordAccepted_output (s : State) (b : Byte) : (s.recordAccepted b).env.output = s.env.output := rfl
@[simp] theorem State.recordAccepted_results (s : State) (b : Byte) : (s.recordAccepted b).env.results = s.env.results := rfl
@[simp] theorem State.recordAccepted_statusSeen (s : State) (b : Byte) : (s.recordAccepted b).env.statusSeen = s.env.statusSeen := rfl

/-! ### State.recordPopped -/

@[simp] theorem State.recordPopped_eng (s : State) (b : Byte) : (s.recordPopped b).eng = s.eng := rfl
@[simp] theorem State.recordPopped_pending (s : State) (b : Byte) : (s.recordPopped b).env.pending = s.env.pending := rfl
@[simp] theorem State.recordPopped_sink (s : State) (b : Byte) : (s.recordPopped b).env.sink = s.env.sink ++ [b] := rfl
@[simp] theorem State.recordPopped_accepted (s : State) (b : Byte) : (s.recordPopped b).env.accepted = s.env.accepted := rfl
@[simp] theorem State.recordPopped_output (s : State) (b : Byte) : (s.recordPopped b).env.output = s.env.output ++ [b] := rfl
@[simp] theorem State.recordPopped_results (s : State) (b : Byte) : (s.recordPopped b).env.results = s.env.results := rfl
@[simp] theorem State.recordPopped_statusSeen (s : State) (b : Byte) : (s.recordPopped b).env.statusSeen = s.env.statusSeen := rfl

/-! ### State.recordResult -/

@[simp] theorem State.recordResult_eng (s : State) (xs : List Byte) : (s.recordResult xs).eng = s.eng := rfl
@[simp] theorem State.recordResult_pending (s : State) (xs : List Byte) : (s.recordResult xs).env.pending = s.env.pending := rfl
@[simp] theorem State.recordResult_sink (s : State) (xs : List Byte) : (s.recordResult xs).env.sink = s.env.sink := rfl
@[simp] theorem State.recordResult_accepted (s : State) (xs : List Byte) : (s.recordResult xs).env.accepted = s.env.accepted := rfl
@[simp] theorem State.recordResult_output (s : State) (xs : List Byte) : (s.recordResult xs).env.output = s.env.output := rfl
@[simp] theorem State.recordResult_results (s : State) (xs : List Byte) : (s.recordResult xs).env.results = s.env.results ++ [xs] := rfl
@[simp] theorem State.recordResult_statusSeen (s : State) (xs : List Byte) : (s.recordResult xs).env.statusSeen = s.env.statusSeen := rfl

/-! ### State.recordStatus -/

@[simp] theorem State.recordStatus_eng (s : State) (w : BitVec 16) : (s.recordStatus w).eng = s.eng := rfl
@[simp] theorem State.recordStatus_pending (s : State) (w : BitVec 16) : (s.recordStatus w).env.pending = s.env.pending := rfl
@[simp] theorem State.recordStatus_sink (s : State) (w : BitVec 16) : (s.recordStatus w).env.sink = s.env.sink := rfl
@[simp] theorem State.recordStatus_accepted (s : State) (w : BitVec 16) : (s.recordStatus w).env.accepted = s.env.accepted := rfl
@[simp] theorem State.recordStatus_output (s : State) (w : BitVec 16) : (s.recordStatus w).env.output = s.env.output := rfl
@[simp] theorem State.recordStatus_results (s : State) (w : BitVec 16) : (s.recordStatus w).env.results = s.env.results := rfl
@[simp] theorem State.recordStatus_statusSeen (s : State) (w : BitVec 16) : (s.recordStatus w).env.statusSeen = s.env.statusSeen ++ [w] := rfl

/-! ### State.forgetSession -/

@[simp] theorem State.forgetSession_eng (s : State) : (s.forgetSession).eng = s.eng := rfl
@[simp] theorem State.forgetSession_pending (s : State) : (s.forgetSession).env.pending = s.env.pending := rfl
@[simp] theorem State.forgetSession_sink (s : State) : (s.forgetSession).env.sink = s.env.sink := rfl
@[simp] theorem State.forgetSession_accepted (s : State) : (s.forgetSession).env.accepted = [] := rfl
@[simp] theorem State.forgetSession_output (s : State) : (s.forgetSession).env.output = [] := rfl
@[simp] theorem State.forgetSession_results (s : State) : (s.forgetSession).env.results = s.env.results := rfl
@[simp] theorem State.forgetSession_statusSeen (s : State) : (s.forgetSession).env.statusSeen = s.env.statusSeen := rfl

end Sys2Proof.Machine
end

