-- ==== Sys2Proof/Laws/Exec.lean ====
section
/-! SUPPORT. Laws/Exec: one inversion lemma per stream meaning that says everything it can do: its rule's effect where the row is
enabled, nothing where it is not. -/

namespace Sys2Proof.Machine

theorem Engine.accepting_iff (e : Engine) : e.accepting = true ↔ e.phase = .run ∧ e.obuf = [] := by
  simp [Engine.accepting]

theorem Engine.canPushEncFirst_iff (e : Engine) :
    e.canPushEncFirst = true ↔ e.phase = .run ∧ e.obuf = [] ∧ e.dir = .enc ∧ e.holdV = false := by
  simp [Engine.canPushEncFirst, Engine.accepting_iff, and_assoc]

theorem Engine.canPushEncSecond_iff (e : Engine) :
    e.canPushEncSecond = true ↔ e.phase = .run ∧ e.obuf = [] ∧ e.dir = .enc ∧ e.holdV = true := by
  simp [Engine.canPushEncSecond, Engine.accepting_iff, and_assoc]

theorem Engine.canEosEnc_iff (e : Engine) :
    e.canEosEnc = true ↔ e.phase = .run ∧ e.obuf = [] ∧ e.dir = .enc := by
  simp [Engine.canEosEnc, Engine.accepting_iff, and_assoc]

theorem Engine.canPushDecPartial_iff (e : Engine) :
    e.canPushDecPartial = true ↔
      e.phase = .run ∧ e.obuf = [] ∧ e.dir = .dec ∧ e.accCnt.toNat + 1 < e.variant.width := by
  simp [Engine.canPushDecPartial, Engine.accepting_iff, and_assoc]

theorem Engine.canPushDecLast_iff (e : Engine) :
    e.canPushDecLast = true ↔
      e.phase = .run ∧ e.obuf = [] ∧ e.dir = .dec ∧ e.accCnt.toNat + 1 = e.variant.width := by
  simp [Engine.canPushDecLast, Engine.accepting_iff, and_assoc]

theorem Engine.canEosDec_iff (e : Engine) :
    e.canEosDec = true ↔ e.phase = .run ∧ e.obuf = [] ∧ e.dir = .dec := by
  simp [Engine.canEosDec, Engine.accepting_iff, and_assoc]

theorem execPushEncFirst_cases {b : Byte} {s t : State} (h : execPushEncFirst b s = .next t) :
    (s.eng.canPushEncFirst = true ∧ t = (s.setEng (s.eng.holdFirst b)).recordAccepted b) ∨
    (s.eng.canPushEncFirst = false ∧ t = s) := by
  unfold execPushEncFirst at h
  split at h <;> cases h <;> simp_all

theorem execPushEncSecond_cases {b : Byte} {s t : State} (h : execPushEncSecond b s = .next t) :
    (s.eng.canPushEncSecond = true ∧
      t = (s.setEng (s.eng.emit (enc s.eng.variant s.eng.heldByte (some b)).bytes).releaseHold).recordAccepted b) ∨
    (s.eng.canPushEncSecond = false ∧ t = s) := by
  unfold execPushEncSecond at h
  split at h <;> cases h <;> simp_all

theorem execEosEnc_cases {x : Byte} {s t : State} (h : execEosEnc x s = .next t) :
    (s.eng.canEosEnc = true ∧ s.eng.holdV = true ∧
      t = s.setEng (s.eng.emit (enc s.eng.variant s.eng.heldByte none).bytes).releaseHold.finish) ∨
    (s.eng.canEosEnc = true ∧ s.eng.holdV = false ∧ t = s.setEng s.eng.finish) ∨
    (s.eng.canEosEnc = false ∧ t = s) := by
  unfold execEosEnc at h
  split at h
  · split at h <;> cases h <;> simp_all
  · cases h; simp_all

theorem execPushDecPartial_cases {b : Byte} {s t : State} (h : execPushDecPartial b s = .next t) :
    (s.eng.canPushDecPartial = true ∧ t = (s.setEng (s.eng.collect b)).recordAccepted b) ∨
    (s.eng.canPushDecPartial = false ∧ t = s) := by
  unfold execPushDecPartial at h
  split at h <;> cases h <;> simp_all

theorem execPushDecLast_cases {b : Byte} {s t : State} (h : execPushDecLast b s = .next t) :
    (s.eng.canPushDecLast = true ∧
      t = (s.setEng (s.eng.emit (dec (s.eng.collected b))).releaseAcc).recordAccepted b) ∨
    (s.eng.canPushDecLast = false ∧ t = s) := by
  unfold execPushDecLast at h
  split at h <;> cases h <;> simp_all

theorem execEosDec_cases {x : Byte} {s t : State} (h : execEosDec x s = .next t) :
    (s.eng.canEosDec = true ∧ s.eng.accCnt = 0#2 ∧ t = s.setEng s.eng.finish) ∨
    (s.eng.canEosDec = true ∧ s.eng.accCnt ≠ 0#2 ∧ t = s.setEng (s.eng.raiseTruncated s.eng.accCnt)) ∨
    (s.eng.canEosDec = false ∧ t = s) := by
  unfold execEosDec at h
  split at h
  · split at h <;> cases h <;> simp_all
  · cases h; simp_all

theorem execPop_cases {s t : State} (h : execPop s = .next t) :
    (∃ b rest, s.eng.obuf = b :: rest ∧ t = (s.setEng s.eng.dropHead).recordPopped b) ∨ (s.eng.obuf = [] ∧ t = s) := by
  unfold execPop at h
  split at h <;> cases h
  · exact .inr ⟨‹_›, rfl⟩
  · exact .inl ⟨_, _, ‹_›, rfl⟩

end Sys2Proof.Machine
end

