-- ==== Sys2Proof/Laws/Step.lean ====
section
/-! SUPPORT. Laws/Step: what a step can do, said once: it has no stimulus and changes nothing, or it is the meaning of the operation
its stimulus stands for, on the state with that stimulus used up. -/

namespace Sys2Proof.Machine

theorem step_cases {s t : State} (h : step s = .next t) :
    (s.env.pending = [] ∧ t = s) ∨
    ∃ x rest i, s.env.pending = x :: rest ∧ fetch s.eng x = .ok i ∧ exec i (s.setPending rest) = .next t := by
  unfold step at h
  split at h
  · cases h; exact .inl ⟨‹_›, rfl⟩
  · rename_i x rest hp
    split at h
    · exact .inr ⟨x, rest, _, hp, ‹_›, h⟩
    · rename_i r _
      cases r <;> simp [stopFor] at h

theorem inReady_iff (e : Engine) (p : PortIn) :
    e.inReady p = true ↔ e.accepting = true ∧ p.rst = false ∧ p.start = false := by
  simp [Engine.inReady, and_assoc]

theorem outValid_iff (e : Engine) (p : PortIn) :
    e.outValid p = true ↔ e.obuf ≠ [] ∧ p.rst = false ∧ p.start = false := by
  simp [Engine.outValid, and_assoc]

/-! ### The words the ports show -/

theorem decodeCtrl_fields : ∀ (r a : Bool) (d v : BitVec 1),
    decodeCtrl (BitVec.ofBool r ++ BitVec.ofBool a ++ d ++ v) =
      if r then .reset (BitVec.ofBool a ++ d ++ v)
      else if a then .start (Variant.ofBit v) (Dir.ofBit d) else .nop (d ++ v) := by decide

theorem decodeCtrl_ctrlWord (p : PortIn) :
    decodeCtrl p.ctrlWord =
      if p.rst then .reset (BitVec.ofBool p.start ++ p.cfgDir ++ p.cfgVariant)
      else if p.start then .start (Variant.ofBit p.cfgVariant) (Dir.ofBit p.cfgDir)
      else .nop (p.cfgDir ++ p.cfgVariant) :=
  decodeCtrl_fields p.rst p.start p.cfgDir p.cfgVariant

theorem dataWord_fields : ∀ b : Byte, (0b0#1 ++ b).getLsbD 8 = false ∧ (0b0#1 ++ b).extractLsb' 0 8 = b := by decide

theorem eosWord_fields : ∀ b : Byte, (0b1#1 ++ b).getLsbD 8 = true ∧ (0b1#1 ++ b).extractLsb' 0 8 = b := by decide

theorem inWord_fields (p : PortIn) : p.inWord.getLsbD 8 = p.inEos ∧ p.inWord.extractLsb' 0 8 = p.inData := by
  unfold PortIn.inWord
  cases p.inEos
  · exact dataWord_fields p.inData
  · exact eosWord_fields p.inData

/-- Where an offered input is accepted, the step's operation is the one its IN word stands for. -/
theorem fetch_accepted (e : Engine) (p : PortIn) (hv : p.inValid = true) (hr : e.inReady p = true) :
    fetch e (.ports p) = decodeIn e.selector p.inWord := by
  obtain ⟨_, h1, h2⟩ := (inReady_iff e p).1 hr
  simp [fetch, stimulusWord, eventWord, h1, h2, hv, hr, decode]

/-- Where nothing is accepted and nothing is commanded, the step's operation is NOP. -/
theorem fetch_noEvent (e : Engine) (p : PortIn) (h1 : p.rst = false) (h2 : p.start = false)
    (hi : (p.inValid && e.inReady p) = false) (ho : (p.outReady && e.outValid p) = false) :
    fetch e (.ports p) = .ok (.nop (p.cfgDir ++ p.cfgVariant)) := by
  simp [fetch, stimulusWord, eventWord, h1, h2, hi, ho, decode, decodeCtrl_ctrlWord]

end Sys2Proof.Machine
end

