-- ==== Sys2Proof/Laws/Fairness.lean ====
section
/-! SUPPORT. Laws/Fairness: what a step of a run can do while the controller is silent, said once: accept the input offered, let the
consumer take a byte, or leave the engine and the session's record as they are. -/

namespace Sys2Proof.Machine

@[simp] theorem Stimulus.portIn_ports (p : PortIn) : (Stimulus.ports p).portIn = p := rfl

theorem State.waitsForInput_iff (s : State) (x : Stimulus) :
    s.waitsForInput x = true ↔
      (s.eng.phase = .run ∧ s.eng.obuf = []) ∧ x.portIn.rst = false ∧ x.portIn.start = false := by
  rw [State.waitsForInput, inReady_iff, Engine.accepting_iff]

theorem State.waitsForConsumer_iff (s : State) (x : Stimulus) :
    s.waitsForConsumer x = true ↔ s.eng.obuf ≠ [] ∧ x.portIn.rst = false ∧ x.portIn.start = false := by
  rw [State.waitsForConsumer, outValid_iff]

/-- A unit the datapath is handed decodes to one of its rows, which leaves the engine and the session's record. -/
theorem exec_of_decodeUnit {v : Variant} {d : Dir} {u : List Byte} {i : Instr} {s t : State}
    (hd : decodeUnit v d u = .ok i) (h : exec i s = .next t) : ∃ r, t = s.recordResult r := by
  unfold decodeUnit decodeEncStd decodeEncExt at hd
  (repeat' split at hd) <;> cases hd
  all_goals try unfold decodeDecStd at h
  all_goals try unfold decodeDecExt at h
  all_goals try split at h
  all_goals (cases h; exact ⟨_, rfl⟩)

/-- Everything a step can do while neither RESET nor START is asked for. -/
theorem step_noControl_cases {s t : State} {x : Stimulus} (h : step (s.setPending [x]) = .next t)
    (h1 : x.portIn.rst = false) (h2 : x.portIn.start = false) :
    (s.waitsForInput x = true ∧ x.portIn.inValid = true ∧
      ∃ i, decodeIn s.eng.selector x.portIn.inWord = .ok i ∧ exec i (s.setPending []) = .next t) ∨
    (s.waitsForConsumer x = true ∧ x.portIn.outReady = true ∧ execPop (s.setPending []) = .next t) ∨
    ((s.waitsForInput x = true → x.portIn.inValid = false) ∧
      (s.waitsForConsumer x = true → x.portIn.outReady = false) ∧
      t.eng = s.eng ∧ t.env.accepted = s.env.accepted ∧ t.env.output = s.env.output ∧ t.env.sink = s.env.sink) := by
  obtain ⟨h, -⟩ | ⟨y, rest, i, hp, hf, he⟩ := step_cases h
  · cases h
  cases hp
  cases x with
  | statusRead => cases hf; cases he; exact .inr (.inr ⟨fun _ => rfl, fun _ => rfl, rfl, rfl, rfl, rfl⟩)
  | unit u =>
    obtain ⟨r, rfl⟩ := exec_of_decodeUnit hf he
    exact .inr (.inr ⟨fun _ => rfl, fun _ => rfl, rfl, rfl, rfl, rfl⟩)
  | ports p =>
    change p.rst = false at h1
    change p.start = false at h2
    by_cases hi : (p.inValid && s.eng.inReady p) = true
    · rw [Bool.and_eq_true] at hi
      exact .inl ⟨hi.2, hi.1, i, (fetch_accepted _ p hi.1 hi.2).symm.trans hf, he⟩
    · rw [Bool.not_eq_true] at hi
      by_cases ho : (p.outReady && s.eng.outValid p) = true
      · rw [Bool.and_eq_true] at ho
        have hw : fetch s.eng (.ports p) = .ok .pop := by
          simp [fetch, stimulusWord, eventWord, h1, h2, hi, ho, decode]
        cases hw.symm.trans hf
        exact .inr (.inl ⟨ho.2, ho.1, he⟩)
      · rw [Bool.not_eq_true] at ho
        cases (fetch_noEvent _ p h1 h2 hi ho).symm.trans hf
        cases he
        refine .inr (.inr ⟨fun hw => ?_, fun hw => ?_, rfl, rfl, rfl, rfl⟩)
        · change s.eng.inReady p = true at hw
          simpa [hw] using hi
        · change s.eng.outValid p = true at hw
          simpa [hw] using ho

end Sys2Proof.Machine
end

