-- ==== Sys2Proof/Laws/PerInstr.lean ====
section
/-! SUPPORT. Laws/PerInstr: the per-instruction family WordFormat: the encoder gives each operation a word of the format that the table
gives its row (spec/30_encoding.md R60): 24 or 32 bits of unit, a 9-bit IN word, a 4-bit CTRL word, or none. -/

namespace Sys2Proof.Laws

/-- The format column of spec/opcode_table.json in bits. -/
def WordFormat.tableBits : Instr → Nat
  | .encStdPair _ _ | .encStdSingle _ | .decStdPair _ _ _ | .decStdSingle _ _ _ => 24
  | .encExtPair _ _ | .encExtSingle _ | .decExtPair _ _ _ _ | .decExtSingle _ _ _ _ => 32
  | .pushEncFirst _ | .pushEncSecond _ | .eosEnc _ | .pushDecPartial _ | .pushDecLast _ | .eosDec _ => 9
  | .reset _ | .start _ _ | .nop _ => 4
  | .pop | .statusRead => 0

/-- The bits of a word in its format (R60). -/
def WordFormat.wordBits : HostWord → Nat
  | .unit u => 8 * u.length
  | .inp _ => 9
  | .ctrl _ => 4
  | .out => 0
  | .status => 0

/-- The encoded word has the format of the operation's row. -/
def WordFormat.Statement (i : Instr) : Prop := WordFormat.wordBits (encode i) = WordFormat.tableBits i

theorem WordFormat.encStdPair (b0 b1 : Byte) : WordFormat.Statement (.encStdPair b0 b1) := rfl
theorem WordFormat.encStdSingle (b0 : Byte) : WordFormat.Statement (.encStdSingle b0) := rfl
theorem WordFormat.encExtPair (b0 b1 : Byte) : WordFormat.Statement (.encExtPair b0 b1) := rfl
theorem WordFormat.encExtSingle (b0 : Byte) : WordFormat.Statement (.encExtSingle b0) := rfl
theorem WordFormat.decStdPair (u0 u1 u2 : Byte) : WordFormat.Statement (.decStdPair u0 u1 u2) := rfl
theorem WordFormat.decStdSingle (u0 u1 u2 : Byte) : WordFormat.Statement (.decStdSingle u0 u1 u2) := rfl
theorem WordFormat.decExtPair (u0 u1 u2 u3 : Byte) : WordFormat.Statement (.decExtPair u0 u1 u2 u3) := rfl
theorem WordFormat.decExtSingle (u0 u1 u2 u3 : Byte) : WordFormat.Statement (.decExtSingle u0 u1 u2 u3) := rfl
theorem WordFormat.pushEncFirst (b : Byte) : WordFormat.Statement (.pushEncFirst b) := rfl
theorem WordFormat.pushEncSecond (b : Byte) : WordFormat.Statement (.pushEncSecond b) := rfl
theorem WordFormat.eosEnc (x : Byte) : WordFormat.Statement (.eosEnc x) := rfl
theorem WordFormat.pushDecPartial (b : Byte) : WordFormat.Statement (.pushDecPartial b) := rfl
theorem WordFormat.pushDecLast (b : Byte) : WordFormat.Statement (.pushDecLast b) := rfl
theorem WordFormat.eosDec (x : Byte) : WordFormat.Statement (.eosDec x) := rfl
theorem WordFormat.pop : WordFormat.Statement .pop := rfl
theorem WordFormat.reset (x : BitVec 3) : WordFormat.Statement (.reset x) := rfl
theorem WordFormat.start (v : Variant) (d : Dir) : WordFormat.Statement (.start v d) := rfl
theorem WordFormat.nop (x : BitVec 2) : WordFormat.Statement (.nop x) := rfl
theorem WordFormat.statusRead : WordFormat.Statement .statusRead := rfl

end Sys2Proof.Laws
end

