-- ==== Sys2Proof/Tests/Slice0.lean ====
section
/-! SUPPORT. Tests/Slice0: the well-formedness smoke, words written out from the spec's encodings, one or two steps per operation with results
taken from spec/95_test_vectors.md, and for every statement of Obligations.lean that has hypotheses a witness that meets them. -/

namespace Sys2Proof.Tests

open Sys2Proof.Machine

/-! ### Well-formedness: each check refuses an ill-formed term -/

theorem test_encStdPair_first_byte_over_7_bits : (Instr.encStdPair 0xE1#8 0x64#8).wellFormed = false := by decide
theorem test_encStdPair_second_byte_over_7_bits : (Instr.encStdPair 0x61#8 0xE4#8).wellFormed = false := by decide
theorem test_encStdSingle_over_7_bits : (Instr.encStdSingle 0xF8#8).wellFormed = false := by decide
theorem test_encExtPair_first_byte_over_7_bits : (Instr.encExtPair 0xE1#8 0x64#8).wellFormed = false := by decide
theorem test_encExtPair_second_byte_over_7_bits : (Instr.encExtPair 0x61#8 0xFF#8).wellFormed = false := by decide
theorem test_encExtSingle_over_7_bits : (Instr.encExtSingle 0x80#8).wellFormed = false := by decide
theorem test_decStdPair_flag_set : (Instr.decStdPair 0xE5#8 0xB8#8 0x80#8).wellFormed = false := by decide
theorem test_decStdSingle_flag_clear : (Instr.decStdSingle 0xE3#8 0xA1#8 0xA4#8).wellFormed = false := by decide
theorem test_decExtPair_flag_set : (Instr.decExtPair 0xF0#8 0x95#8 0xB8#8 0x80#8).wellFormed = false := by decide
theorem test_decExtSingle_flag_clear : (Instr.decExtSingle 0xF0#8 0x93#8 0xA1#8 0xA4#8).wellFormed = false := by decide

/-! ### Decoding: every constructor by a word written out from its encoding (R61 to R63, R68, R69) -/

def encStdSel : Selector := ⟨.std, .enc, false, 0#2⟩
def encExtSel : Selector := ⟨.ext, .enc, false, 0#2⟩
def decStdSel : Selector := ⟨.std, .dec, false, 0#2⟩
def decExtSel : Selector := ⟨.ext, .dec, false, 0#2⟩

-- V1: E3 A1 A4 = 11100 0 1 1, 10 100001, 10 100100
theorem test_decode_encStdPair :
    decode encStdSel (.unit [0b11100011#8, 0b10100001#8, 0b10100100#8]) = .ok (.encStdPair 0x61#8 0x64#8) := by decide
-- D-C7: P and Q placement, (40, 00) gives E2 80 80 and (00, 40) gives E1 80 80
theorem test_decode_encStdPair_p : decodeTableWord 24 0xE28080 = some (.encStdPair 0x40#8 0x00#8) := by decide
theorem test_decode_encStdPair_q : decodeTableWord 24 0xE18080 = some (.encStdPair 0x00#8 0x40#8) := by decide
-- V4: E5 B8 80 = 11100 1 0 1, 10 111000, 10000000
theorem test_decode_encStdSingle :
    decode encStdSel (.unit [0b11100101#8, 0b10111000#8, 0b10000000#8]) = .ok (.encStdSingle 0x78#8) := by decide
-- V5: F0 93 A1 A4
theorem test_decode_encExtPair :
    decode encExtSel (.unit [0b11110000#8, 0b10010011#8, 0b10100001#8, 0b10100100#8]) =
      .ok (.encExtPair 0x61#8 0x64#8) := by decide
-- V6: F0 95 B8 80
theorem test_decode_encExtSingle :
    decode encExtSel (.unit [0b11110000#8, 0b10010101#8, 0b10111000#8, 0b10000000#8]) = .ok (.encExtSingle 0x78#8) := by
  decide
-- D-D6: the unit of the corrected prose formula, P = 1 with F = 1, is no encode row's output (R71 b)
theorem test_decode_refuses_p_with_f : decode encStdSel (.unit [0xE6#8, 0xB8#8, 0x80#8]) = .error .unitForm := by decide
-- a single-form last byte other than 0x80 (R71 b)
theorem test_decode_refuses_sentinel : decode encExtSel (.unit [0xF0#8, 0x95#8, 0xB8#8, 0x81#8]) = .error .unitForm := by
  decide
-- a Standard unit in an Extended session (R67)
theorem test_decode_refuses_width : decode decExtSel (.unit [0xE3#8, 0xA1#8, 0xA4#8]) = .error .unitLength := by decide
-- D-D1, D-D7, D-D12, D-D15
theorem test_decode_decStdPair :
    decode decStdSel (.unit [0xE3#8, 0xA1#8, 0xA4#8]) = .ok (.decStdPair 0xE3#8 0xA1#8 0xA4#8) := by decide
theorem test_decode_decStdSingle :
    decode decStdSel (.unit [0xFF#8, 0xFF#8, 0xFF#8]) = .ok (.decStdSingle 0xFF#8 0xFF#8 0xFF#8) := by decide
theorem test_decode_decExtPair :
    decode decExtSel (.unit [0x00#8, 0x93#8, 0xA1#8, 0xA4#8]) = .ok (.decExtPair 0x00#8 0x93#8 0xA1#8 0xA4#8) := by decide
theorem test_decode_decExtSingle :
    decode decExtSel (.unit [0xF0#8, 0x97#8, 0xB8#8, 0x55#8]) = .ok (.decExtSingle 0xF0#8 0x97#8 0xB8#8 0x55#8) := by
  decide
-- IN words of P1: PUSH 62 is 0x062, EOS is 0x100
theorem test_decode_pushEncFirst : decode encStdSel (.inp 0b001100010#9) = .ok (.pushEncFirst 0x62#8) := by decide
theorem test_decode_pushEncSecond :
    decode ⟨.std, .enc, true, 0#2⟩ (.inp 0b001100010#9) = .ok (.pushEncSecond 0x62#8) := by decide
theorem test_decode_eosEnc : decode encStdSel (.inp 0b100000000#9) = .ok (.eosEnc 0x00#8) := by decide
theorem test_decode_pushDecPartial : decode decStdSel (.inp 0b011100011#9) = .ok (.pushDecPartial 0xE3#8) := by decide
theorem test_decode_pushDecLast :
    decode ⟨.std, .dec, false, 2#2⟩ (.inp 0b010100100#9) = .ok (.pushDecLast 0xA4#8) := by decide
theorem test_decode_eosDec : decode decExtSel (.inp 0b100000000#9) = .ok (.eosDec 0x00#8) := by decide
theorem test_decode_refuses_accCount : decode ⟨.std, .dec, false, 3#2⟩ (.inp 0x000#9) = .error .accCount := by decide
-- CTRL words of P1, P2 and R69; POP and STATUS have no word (R73)
theorem test_decode_reset : decode encStdSel (.ctrl 0b1000#4) = .ok (.reset 0b000#3) := by decide
theorem test_decode_start : decode encStdSel (.ctrl 0b0110#4) = .ok (.start .std .dec) := by decide
theorem test_decode_nop : decode encStdSel (.ctrl 0b0010#4) = .ok (.nop 0b10#2) := by decide
theorem test_decode_pop : decode encStdSel .out = .ok .pop := by decide
theorem test_decode_statusRead : decode encStdSel .status = .ok .statusRead := by decide

/-! ### One step each, results from spec/95_test_vectors.md -/

/-- A state with this engine and nothing recorded. -/
def st (e : Engine) : State := { State.reset with eng := e }

/-- The state an operation leads to. -/
def after (i : Instr) (s : State) : State :=
  match exec i s with
  | .next t => t
  | .fault _ => s
  | .refused _ => s

/-- The state a step leads to. -/
def afterStep (s : State) : State :=
  match step s with
  | .next t => t
  | .fault _ => s
  | .refused _ => s

/-- After START v, d. -/
def started (v : Variant) (d : Dir) : State := after (.start v d) State.reset

/-- A running encode session that holds 0x61. -/
def holding (v : Variant) : State := after (.pushEncFirst 0x61#8) (started v .enc)

/-- A Standard decode session with E3 A1 collected. -/
def twoCollected : State := after (.pushDecPartial 0xA1#8) (after (.pushDecPartial 0xE3#8) (started .std .dec))

/-- An Extended decode session with F0 93 A1 collected. -/
def threeCollected : State :=
  after (.pushDecPartial 0xA1#8) (after (.pushDecPartial 0x93#8) (after (.pushDecPartial 0xF0#8) (started .ext .dec)))

-- D-C8, D-C2 (R82, R86)
theorem test_encStdPair_masks : (after (.encStdPair 0xE1#8 0xE4#8) State.reset).env.results = [[0xE3#8, 0xA1#8, 0xA4#8]] := by
  decide
theorem test_encStdPair_zero : (after (.encStdPair 0x00#8 0x00#8) State.reset).env.results = [[0xE0#8, 0x80#8, 0x80#8]] := by
  decide
-- D-C13 (R83, C1)
theorem test_encStdSingle_q : (after (.encStdSingle 0x40#8) State.reset).env.results = [[0xE5#8, 0x80#8, 0x80#8]] := by decide
-- D-C16, D-C21 (R84, R85)
theorem test_encExtPair_largest :
    (after (.encExtPair 0x7F#8 0x7F#8) State.reset).env.results = [[0xF0#8, 0x93#8, 0xBF#8, 0xBF#8]] := by decide
theorem test_encExtSingle_b : (after (.encExtSingle 0x62#8) State.reset).env.results = [[0xF0#8, 0x95#8, 0xA2#8, 0x80#8]] := by
  decide
-- D-D5, D-D10 (R88, R92)
theorem test_decStdPair_malformed : (after (.decStdPair 0xFB#8 0xFF#8 0xFF#8) State.reset).env.results = [[0x7F#8, 0x7F#8]] := by
  decide
theorem test_decStdPair_ext_prefix : (after (.decStdPair 0xF0#8 0x93#8 0xA1#8) State.reset).env.results = [[0x13#8, 0x21#8]] := by
  decide
-- D-D6 (R89)
theorem test_decStdSingle_p_not_read : (after (.decStdSingle 0xE6#8 0xB8#8 0x80#8) State.reset).env.results = [[0x38#8]] := by
  decide
-- D-D14, D-D15 (R90, R91)
theorem test_decExtPair_std_bytes :
    (after (.decExtPair 0xE3#8 0xA1#8 0xA4#8 0xE3#8) State.reset).env.results = [[0x24#8, 0x63#8]] := by decide
theorem test_decExtSingle_p_not_read :
    (after (.decExtSingle 0xF0#8 0x97#8 0xB8#8 0x55#8) State.reset).env.results = [[0x78#8]] := by decide
-- D-T1 to D-T4
theorem test_pushEncFirst : (holding .std).eng.status = 0x0081#16 ∧ (holding .std).eng.hold = 0x61#7 := by decide
theorem test_pushEncSecond :
    (after (.pushEncSecond 0x64#8) (holding .std)).eng.obuf = [0xE3#8, 0xA1#8, 0xA4#8] ∧
    (after (.pushEncSecond 0x64#8) (holding .std)).eng.status = 0x0031#16 := by decide
theorem test_push_not_accepted_while_output_waits :
    after (.pushEncFirst 0x00#8) (after (.pushEncSecond 0x64#8) (holding .std)) =
      after (.pushEncSecond 0x64#8) (holding .std) := by decide
theorem test_pop :
    (after .pop (after (.pushEncSecond 0x64#8) (holding .std))).env.sink = [0xE3#8] ∧
    (after .pop (after (.pushEncSecond 0x64#8) (holding .std))).eng.status = 0x0021#16 := by decide
-- D-T5, D-T10
theorem test_eosEnc_odd :
    (after (.eosEnc 0x00#8) (after (.pushEncFirst 0x78#8) (started .std .enc))).eng.obuf = [0xE5#8, 0xB8#8, 0x80#8] ∧
    (after (.eosEnc 0x00#8) (after (.pushEncFirst 0x78#8) (started .std .enc))).eng.status = 0x0032#16 := by decide
theorem test_eosEnc_empty : (after (.eosEnc 0x00#8) (started .ext .enc)).eng.status = 0x0006#16 := by decide
-- D-T7, D-T8, P2
theorem test_pushDecPartial_std : twoCollected.eng.status = 0x0209#16 := by decide
theorem test_pushDecPartial_ext : threeCollected.eng.status = 0x030D#16 := by decide
theorem test_pushDecLast :
    (after (.pushDecLast 0xA4#8) twoCollected).eng.obuf = [0x61#8, 0x64#8] ∧
    (after (.pushDecLast 0xA4#8) twoCollected).eng.status = 0x0029#16 := by decide
theorem test_pushDecLast_ext : (after (.pushDecLast 0xA4#8) threeCollected).eng.status = 0x002D#16 := by decide
-- D-E2, D-E5, D-T9
theorem test_eosDec_truncated : (after (.eosDec 0x00#8) twoCollected).eng.status = 0x080B#16 := by decide
theorem test_eosDec_truncated_ext : (after (.eosDec 0x00#8) threeCollected).eng.status = 0x0C0F#16 := by decide
-- D-K3, D-K5, D-K1
theorem test_start : (after (.start .ext .dec) twoCollected).eng.status = 0x000D#16 := by decide
theorem test_start_clears_error :
    (after (.start .std .dec) (after (.eosDec 0x00#8) twoCollected)).eng.status = 0x0009#16 := by decide
theorem test_reset : (after (.reset 0b111#3) threeCollected).eng = Engine.reset := by decide
theorem test_nop : (after (.nop 0b11#2) (holding .std)).eng.status = 0x0081#16 := by decide
theorem test_statusRead : (after .statusRead twoCollected).env.statusSeen = [0x0209#16] := by decide
-- D-K7: rst and start together, RESET is taken
theorem test_step_reset_over_start :
    (afterStep ((holding .std).setPending [.ports { PortIn.idle with rst := true, start := true }])).eng = Engine.reset := by
  decide
-- D-K2: an offer before any START is not accepted
theorem test_step_offer_in_idle : (afterStep (State.reset.setPending [offerByte 0x61#8])) = State.reset := by decide
-- a table word placed by withFetchWord is what the next step runs
theorem test_withFetchWord_start : (afterStep (State.reset.withFetchWord 8 0b0111)).eng.status = 0x000D#16 := by decide
theorem test_withFetchWord_push : (afterStep (State.reset.withFetchWord 16 0x061)).eng.status = 0x0081#16 := by decide
theorem test_withFetchWord_unit :
    (afterStep (State.reset.withFetchWord 24 0x000000)).env.results = [[0x00#8, 0x00#8]] := by decide
theorem test_withFetchWord_pop : (afterStep (State.reset.withFetchWord 0 0)).eng.obuf = [] := by decide
-- D-C4 to D-C6: where overlong forms end (R66)
theorem test_isUtf8_boundary :
    (enc .std 0x1F#8 (some 0x3F#8)).isUtf8 = false ∧ (enc .std 0x20#8 (some 0x00#8)).isUtf8 = true ∧
    (enc .std 0x1F#8 (some 0x40#8)).isUtf8 = true := by decide
-- R65: "ad" is U+3864, Extended "x" is U+15E00
theorem test_codePoint :
    (enc .std 0x61#8 (some 0x64#8)).codePoint = 0x3864 ∧ (enc .ext 0x78#8 none).codePoint = 0x15E00 := by decide
-- V3, P5: the stream functions
theorem test_encodeStream_bbb :
    encodeStream .std [0x62#8, 0x62#8, 0x62#8] = [0xE3#8, 0xA2#8, 0xA2#8, 0xE5#8, 0xA2#8, 0x80#8] := by decide
theorem test_decodeStream_xb :
    decodeStream .std [0xE5#8, 0xB8#8, 0x80#8, 0xE5#8, 0xA2#8, 0x80#8] = [0x78#8, 0x62#8] := by decide

/-! ### Witnesses: for every statement with hypotheses, a state and operands that meet them -/

theorem witness_DecodeOfEncodeIsIdentity :
    (Instr.encStdPair 0x7F#8 0x40#8).wellFormed = true ∧ encStdSel.admits (.encStdPair 0x7F#8 0x40#8) = true := by decide

theorem witness_DecodedWordIsItsEncoding : decode decStdSel (.inp 0x1FF#9) = .ok (.eosDec 0xFF#8) := by decide

theorem witness_CodecRoundTrip : (0x7F#8 : Byte).toNat ≤ 127 ∧ (0x00#8 : Byte).toNat ≤ 127 := by decide

theorem witness_EncodeIsInjective :
    (0x7F#8 : Byte).toNat ≤ 127 ∧ (∀ x, some (0x7F#8 : Byte) = some x → x.toNat ≤ 127) ∧
    enc .std 0x7F#8 (some 0x7F#8) = enc .std 0x7F#8 (some 0x7F#8) :=
  ⟨by decide, fun x h => by cases h; decide, rfl⟩

theorem witness_HighBitOfInputIsIgnored :
    (∃ t, exec (.pushEncFirst 0xE1#8) (started .std .enc) = .next t) ∧
    (∃ t, exec (.pushEncFirst (0xE1#8 &&& 0x7F#8)) (started .std .enc) = .next t) ∧
    (∃ t, exec (.pushEncSecond 0xE1#8) (holding .std) = .next t) ∧
    (∃ t, exec (.pushEncSecond (0xE1#8 &&& 0x7F#8)) (holding .std) = .next t) :=
  ⟨⟨_, rfl⟩, ⟨_, rfl⟩, ⟨_, rfl⟩, ⟨_, rfl⟩⟩

theorem witness_DecoderReadsOnlyItsFields :
    (CodeUnit.ext 0xF0#8 0x97#8 0xB8#8 0x55#8).flag = (CodeUnit.std 0xE5#8 0xB8#8 0x80#8).flag ∧
    (CodeUnit.ext 0xF0#8 0x97#8 0xB8#8 0x55#8).fieldQ = (CodeUnit.std 0xE5#8 0xB8#8 0x80#8).fieldQ ∧
    (CodeUnit.ext 0xF0#8 0x97#8 0xB8#8 0x55#8).fieldD0 = (CodeUnit.std 0xE5#8 0xB8#8 0x80#8).fieldD0 := by decide

theorem witness_DecodedBytesAreAscii :
    (0x7F#8 : Byte) ∈ dec (.std 0xFF#8 0xFF#8 0xFF#8) ∧
    (0x7F#8 : Byte) ∈ decodeStream .ext [0x00#8, 0x03#8, 0xFF#8, 0xFF#8] := by decide

theorem witness_PushEncFirstHoldsTheByte :
    (started .ext .enc).eng.phase = .run ∧ (started .ext .enc).eng.obuf = [] ∧ (started .ext .enc).eng.dir = .enc ∧
    (started .ext .enc).eng.holdV = false := by decide

theorem witness_PushEncSecondEmitsTheUnit :
    (holding .ext).eng.phase = .run ∧ (holding .ext).eng.obuf = [] ∧ (holding .ext).eng.dir = .enc ∧
    (holding .ext).eng.holdV = true := by decide

theorem witness_EosEncFlushesTheHeldByte :
    ((holding .std).eng.phase = .run ∧ (holding .std).eng.obuf = [] ∧ (holding .std).eng.dir = .enc ∧
      (holding .std).eng.holdV = true) ∧
    ((started .std .enc).eng.phase = .run ∧ (started .std .enc).eng.obuf = [] ∧ (started .std .enc).eng.dir = .enc ∧
      (started .std .enc).eng.holdV = false) := by decide

theorem witness_PushDecPartialCollectsTheByte :
    ((started .std .dec).eng.phase = .run ∧ (started .std .dec).eng.obuf = [] ∧ (started .std .dec).eng.dir = .dec ∧
      (started .std .dec).eng.accCnt.toNat < (started .std .dec).eng.variant.width - 1) ∧
    (∃ b, (after (.pushDecPartial b) (after (.pushDecPartial b) (started .ext .dec))).eng.accCnt.toNat = 2 ∧
      (after (.pushDecPartial b) (after (.pushDecPartial b) (started .ext .dec))).eng.variant = .ext) :=
  ⟨by decide, 0x00#8, by decide⟩

theorem witness_PushDecLastEmitsTheBytes :
    (twoCollected.eng.phase = .run ∧ twoCollected.eng.obuf = [] ∧ twoCollected.eng.dir = .dec ∧
      twoCollected.eng.accCnt.toNat = twoCollected.eng.variant.width - 1) ∧
    threeCollected.eng.accCnt.toNat = threeCollected.eng.variant.width - 1 := by decide

theorem witness_EosDecEndsOrRaisesTruncated :
    ((started .std .dec).eng.phase = .run ∧ (started .std .dec).eng.obuf = [] ∧ (started .std .dec).eng.dir = .dec ∧
      (started .std .dec).eng.accCnt = 0#2) ∧
    (threeCollected.eng.phase = .run ∧ threeCollected.eng.obuf = [] ∧ threeCollected.eng.dir = .dec ∧
      0 < threeCollected.eng.accCnt.toNat ∧ threeCollected.eng.accCnt.toNat < threeCollected.eng.variant.width) := by
  decide

/-- An encode session whose unit waits in OBUF. -/
def unitWaiting : State := after (.pushEncSecond 0x64#8) (holding .std)

theorem witness_PopTakesTheOldestByte : unitWaiting.eng.obuf = 0xE3#8 :: [0xA1#8, 0xA4#8] := by decide

theorem witness_DisabledOffersMoveNothing :
    State.reset.eng.phase ≠ .run ∧ unitWaiting.eng.obuf ≠ [] ∧ State.reset.eng.obuf = [] := by decide

theorem witness_UnselectedInRowsDoNothing :
    encode (.pushEncSecond 0x61#8) = .inp 0x061#9 ∧
    (started .std .enc).eng.selector.admits (.pushEncSecond 0x61#8) = false ∧
    twoCollected.eng.selector.admits (.eosEnc 0x61#8) = false := by decide

theorem witness_AcceptedBytesAreRecorded :
    ((started .std .enc).eng.dir = .enc ∧ (started .std .enc).eng.holdV = false) ∧
    ((holding .std).eng.dir = .enc ∧ (holding .std).eng.holdV = true) ∧
    ((started .std .dec).eng.dir = .dec ∧ (started .std .dec).eng.accCnt.toNat + 1 < 3) ∧
    (twoCollected.eng.dir = .dec ∧ twoCollected.eng.accCnt.toNat + 1 = 3 ∧ twoCollected.eng.variant = .std ∧
      twoCollected.eng.phase = .run ∧ twoCollected.eng.obuf = []) := by decide

theorem witness_SequencerEmitsTheRowsResult :
    ((holding .std).eng.canPushEncSecond = true ∧
      exec (.pushEncSecond 0x64#8) (holding .std) = .next (after (.pushEncSecond 0x64#8) (holding .std))) ∧
    ((holding .ext).eng.canEosEnc = true ∧ (holding .ext).eng.holdV = true ∧
      exec (.eosEnc 0x00#8) (holding .ext) = .next (after (.eosEnc 0x00#8) (holding .ext))) ∧
    (threeCollected.eng.canPushDecLast = true ∧
      exec (.pushDecLast 0xA4#8) threeCollected = .next (after (.pushDecLast 0xA4#8) threeCollected)) :=
  ⟨⟨by decide, rfl⟩, ⟨by decide, by decide, rfl⟩, ⟨by decide, rfl⟩⟩

theorem witness_StatusFieldsShowTheElements :
    (after (.pushEncSecond 0x64#8) (holding .ext)).eng.obuf.length = 4 := by decide

theorem witness_OperationsKeepTheRecord :
    exec (.encStdPair 0x61#8 0x64#8) State.reset = .next (after (.encStdPair 0x61#8 0x64#8) State.reset) ∧
    exec .pop unitWaiting = .next (after .pop unitWaiting) ∧
    exec (.reset 0b000#3) unitWaiting = .next (after (.reset 0b000#3) unitWaiting) ∧
    exec (.eosDec 0x00#8) twoCollected = .next (after (.eosDec 0x00#8) twoCollected) :=
  ⟨rfl, rfl, rfl, rfl⟩

theorem witness_HandshakeOutputs :
    (started .std .dec).eng.inReady PortIn.idle = true ∧ unitWaiting.eng.outValid PortIn.idle = true := by decide

theorem witness_StepRunsTheDecodedOperation :
    (State.reset.setPending [offerStart .ext .dec]).env.pending = offerStart .ext .dec :: [] ∧
    decode State.reset.eng.selector (stimulusWord State.reset.eng (offerStart .ext .dec)) = .ok (.start .ext .dec) := by
  decide

theorem witness_NoEventChangesNothing : State.reset.env.pending = [] := by decide

/-- Ports that ask for everything at once but RESET and START. -/
def busyPorts : PortIn := { PortIn.idle with inValid := true, outReady := true, inData := 0xA4#8 }

theorem witness_PortsChooseTheEventByPriority :
    (unitWaiting.setPending [.ports busyPorts]).env.pending = .ports busyPorts :: [] ∧
    unitWaiting.eng.obuf ≠ [] ∧ busyPorts.rst = false ∧ busyPorts.start = false ∧ busyPorts.outReady = true ∧
    busyPorts.inValid = true ∧ busyPorts.inEos = false ∧
    (threeCollected.eng.phase = .run ∧ threeCollected.eng.obuf = [] ∧
      threeCollected.eng.accCnt.toNat + 1 = threeCollected.eng.variant.width) ∧
    ((started .ext .dec).eng.accCnt.toNat + 1 < (started .ext .dec).eng.variant.width) ∧
    (PortIn.idle.inValid = false ∧ PortIn.idle.outReady = false) := by decide

/-- A decode session in a state no run reaches: ACC_CNT is 3 where N is 3. -/
def overrun : State := st { (started .std .dec).eng with accCnt := 3#2 }

theorem witness_StepStopsOnlyAtTheseStimuli :
    step (State.reset.setPending [.unit [0x00#8]]) = .refused .unitLength ∧
    step (State.reset.setPending [.unit [0xE6#8, 0xB8#8, 0x80#8]]) = .refused .unitForm ∧
    step (overrun.setPending [offerByte 0x00#8]) = .fault .accCountBeyondUnit :=
  ⟨rfl, rfl, rfl⟩

theorem witness_StagedRowRunsNext : (Instr.decExtSingle 0xF0#8 0x95#8 0xB8#8 0x80#8).wellFormed = true := by decide

theorem witness_SoundEngineKeptByStep :
    ((holding .std).setPending [offerByte 0x64#8]).eng.Sound ∧
    step ((holding .std).setPending [offerByte 0x64#8]) =
      .next (afterStep ((holding .std).setPending [offerByte 0x64#8])) :=
  ⟨by decide, rfl⟩

theorem witness_FaithfulStreamKeptByStep :
    (threeCollected.setPending [offerByte 0xA4#8]).eng.Sound ∧ (threeCollected.setPending [offerByte 0xA4#8]).Faithful ∧
    step (threeCollected.setPending [offerByte 0xA4#8]) =
      .next (afterStep (threeCollected.setPending [offerByte 0xA4#8])) :=
  ⟨by decide, ⟨by decide, by decide, by decide⟩, rfl⟩

/-- "x" encoded, ended and drained. -/
def encodedX : State :=
  after .pop (after .pop (after .pop (after (.eosEnc 0x00#8) (after (.pushEncFirst 0x78#8) (started .std .enc)))))

theorem witness_EndedEncodeSessionOutput :
    encodedX.eng.Sound ∧ encodedX.Faithful ∧ encodedX.ended = true ∧ encodedX.eng.dir = .enc ∧
    encodedX.env.output = [0xE5#8, 0xB8#8, 0x80#8] :=
  ⟨by decide, ⟨by decide, by decide, by decide⟩, by decide, by decide, by decide⟩

/-- A truncated Standard decode and a clean Extended one. -/
def truncated : State := after (.eosDec 0x00#8) twoCollected
def decodedNothing : State := after (.eosDec 0x00#8) (started .ext .dec)

theorem witness_EndedDecodeSessionOutput :
    (truncated.eng.Sound ∧ truncated.Faithful ∧ truncated.ended = true ∧ truncated.eng.dir = .dec ∧
      truncated.env.accepted.length % truncated.eng.variant.width ≠ 0) ∧
    (decodedNothing.eng.Sound ∧ decodedNothing.Faithful ∧ decodedNothing.ended = true ∧ decodedNothing.eng.dir = .dec ∧
      decodedNothing.env.accepted.length % decodedNothing.eng.variant.width = 0) :=
  ⟨⟨by decide, ⟨by decide, by decide, by decide⟩, by decide, by decide, by decide⟩,
    ⟨by decide, ⟨by decide, by decide, by decide⟩, by decide, by decide, by decide⟩⟩

theorem witness_StreamRoundTrip : ∀ b ∈ [(0x7F#8 : Byte), 0x00#8, 0x62#8], b.toNat ≤ 127 := by decide

theorem witness_ConfigurationFixedWithinASession :
    exec .pop unitWaiting = .next (after .pop unitWaiting) ∧ (∀ v d, Instr.pop ≠ .start v d) ∧
    (∀ x, Instr.pop ≠ .reset x) :=
  ⟨rfl, (by intro _ _ h; cases h), (by intro _ h; cases h)⟩

theorem witness_ElementsChangedOnlyByTheirWriters :
    exec (.pushEncFirst 0x61#8) (started .std .enc) = .next (holding .std) ∧
    (∀ v d, Instr.pushEncFirst 0x61#8 ≠ .start v d) ∧ (∀ x, Instr.pushEncFirst 0x61#8 ≠ .reset x) ∧
    (holding .std).eng.hold ≠ (started .std .enc).eng.hold :=
  ⟨rfl, (by intro _ _ h; cases h), (by intro _ h; cases h), by decide⟩

/-- The clauses of the other writers, at states where each element does change. -/
theorem witness_ElementsChangedOnlyByTheirWriters_others :
    (after (.eosDec 0x00#8) twoCollected).eng.phase ≠ twoCollected.eng.phase ∧
    (after (.eosDec 0x00#8) twoCollected).eng.errK ≠ twoCollected.eng.errK ∧
    (after (.eosDec 0x00#8) twoCollected).eng.accCnt ≠ twoCollected.eng.accCnt ∧
    (after (.pushDecPartial 0xE3#8) (started .std .dec)).eng.acc ≠ (started .std .dec).eng.acc ∧
    unitWaiting.eng.holdV ≠ (holding .std).eng.holdV ∧
    (after .pop unitWaiting).eng.obuf ≠ unitWaiting.eng.obuf := by decide

theorem witness_PhaseTransitions : exec (.eosDec 0x00#8) twoCollected = .next truncated := rfl

theorem witness_ErrorLeftOnlyByStartOrReset :
    truncated.eng.phase = .err ∧ exec (.pushDecPartial 0x00#8) truncated = .next truncated ∧
    exec (.start .std .dec) truncated = .next (after (.start .std .dec) truncated) :=
  ⟨by decide, rfl, rfl⟩

theorem witness_NoInputAfterEndOfStream :
    truncated.eng.phase = .err ∧ encodedX.eng.phase = .done ∧
    exec (.pushEncFirst 0x61#8) encodedX = .next encodedX ∧
    (∀ v d, Instr.pushEncFirst 0x61#8 ≠ .start v d) ∧ (∀ x, Instr.pushEncFirst 0x61#8 ≠ .reset x) :=
  ⟨by decide, by decide, rfl, (by intro _ _ h; cases h), (by intro _ h; cases h)⟩

theorem witness_EngineIgnoresTheRecord :
    (started .std .enc).eng = ((started .std .enc).recordPopped 0x00#8).eng ∧
    exec (.pushEncFirst 0x61#8) (started .std .enc) = .next (holding .std) ∧
    ∃ t, exec (.pushEncFirst 0x61#8) ((started .std .enc).recordPopped 0x00#8) = .next t :=
  ⟨rfl, rfl, ⟨_, rfl⟩⟩

theorem witness_EncodeSessionEnds :
    ∃ s : State, s.env.pending = offerStart .ext .enc :: encodeSchedule .ext [0x62#8, 0x62#8, 0x62#8] :=
  ⟨State.reset.setPending _, rfl⟩

theorem witness_DecodeSessionEnds :
    ∃ s : State, s.env.pending = offerStart .std .dec :: decodeSchedule .std [0xE3#8, 0xA1#8, 0xA4#8, 0xE3#8] :=
  ⟨State.reset.setPending _, rfl⟩

/-- A host that sends one byte, ends the stream, and takes every byte from then on. -/
def oneByteHost (b : Byte) : Nat → Stimulus
  | 0 => offerByte b
  | 1 => offerEos
  | _ + 2 => takeByte

/-- The run of a session against it. -/
def oneByteRun (v : Variant) (d : Dir) (b : Byte) : Nat → State
  | 0 => started v d
  | k + 1 => afterStep ((oneByteRun v d b k).setPending [oneByteHost b k])

theorem oneByteRun_settled {v : Variant} {d : Dir} {b : Byte} {u : State} (h : oneByteRun v d b 5 = u)
    (hu : afterStep (u.setPending [takeByte]) = u) : ∀ k, oneByteRun v d b (k + 5) = u
  | 0 => h
  | k + 1 => by
    change afterStep ((oneByteRun v d b (k + 5)).setPending [takeByte]) = u
    rw [oneByteRun_settled h hu k, hu]

/-- Where the run is settled in an ended session after five steps, the host is fair. -/
theorem oneByteHost_fair {v : Variant} {d : Dir} {b : Byte} {u : State} (hk : ∀ k, oneByteRun v d b (k + 5) = u)
    (h1 : u.waitsForInput takeByte = false) (h2 : u.waitsForConsumer takeByte = false)
    (hs : ∀ k, k < 5 → (oneByteRun v d b k).waitsForInput (oneByteHost b k) = true →
      (oneByteHost b k).portIn.inValid = true →
      match [b][(oneByteRun v d b k).env.accepted.length]? with
      | some c => (oneByteHost b k).portIn.inEos = false ∧ (oneByteHost b k).portIn.inData = c
      | none => (oneByteHost b k).portIn.inEos = true) :
    FairHost [b] (oneByteHost b) (oneByteRun v d b) := by
  refine ⟨fun k => ?_, fun k => ?_, fun k => ⟨k + 5, by omega, ?_⟩, fun k => ⟨k + 5, by omega, ?_⟩⟩
  · match k with
    | 0 | 1 | _ + 2 => exact ⟨rfl, rfl⟩
  · match k with
    | 0 | 1 | 2 | 3 | 4 => exact hs _ (by omega)
    | k + 5 => exact fun _ h => Bool.noConfusion h
  · rw [hk, show oneByteHost b (k + 5) = takeByte from rfl, h1]
    exact Bool.noConfusion
  · rw [hk, show oneByteHost b (k + 5) = takeByte from rfl, h2]
    exact Bool.noConfusion

/-- "x" encoded. -/
theorem witness_FairSessionsEnd :
    exec (.start .std .enc) State.reset = .next (oneByteRun .std .enc 0x78#8 0) ∧
    IsRun (oneByteHost 0x78#8) (oneByteRun .std .enc 0x78#8) ∧
    FairHost [0x78#8] (oneByteHost 0x78#8) (oneByteRun .std .enc 0x78#8) := by
  have hk := oneByteRun_settled (v := .std) (d := .enc) (b := 0x78#8) (u := encodedX) (by decide) (by decide)
  refine ⟨rfl, fun k => ?_, oneByteHost_fair hk rfl rfl fun k hlt => ?_⟩
  · match k with
    | 0 | 1 | 2 | 3 | 4 => rfl
    | k + 5 => rw [hk k, hk (k + 1)]; rfl
  · match k with
    | 0 => exact fun _ _ => ⟨rfl, rfl⟩
    | 1 => exact fun _ _ => rfl
    | 2 | 3 | 4 => exact fun _ h => Bool.noConfusion h

/-- A decode session cut off after one byte, which ends in ERR. -/
theorem witness_FairSessionsEnd_truncated :
    exec (.start .std .dec) State.reset = .next (oneByteRun .std .dec 0xE3#8 0) ∧
    IsRun (oneByteHost 0xE3#8) (oneByteRun .std .dec 0xE3#8) ∧
    FairHost [0xE3#8] (oneByteHost 0xE3#8) (oneByteRun .std .dec 0xE3#8) := by
  have hk := oneByteRun_settled (v := .std) (d := .dec) (b := 0xE3#8)
    (u := after (.eosDec 0x00#8) (after (.pushDecPartial 0xE3#8) (started .std .dec))) (by decide) (by decide)
  refine ⟨rfl, fun k => ?_, oneByteHost_fair hk rfl rfl fun k hlt => ?_⟩
  · match k with
    | 0 | 1 | 2 | 3 | 4 => rfl
    | k + 5 => rw [hk k, hk (k + 1)]; rfl
  · match k with
    | 0 => exact fun _ _ => ⟨rfl, rfl⟩
    | 1 => exact fun _ _ => rfl
    | 2 | 3 | 4 => exact fun _ h => Bool.noConfusion h

theorem witness_UnfairHostsAreWaitedForForEver :
    (IsRun (fun _ => .ports PortIn.idle) (fun _ => unitWaiting) ∧ unitWaiting.eng.obuf ≠ []) ∧
    (IsRun (fun _ => takeByte) (fun _ => started .ext .dec) ∧ (started .ext .dec).eng.phase = .run ∧
      (started .ext .dec).eng.obuf = []) ∧
    NoControl (fun _ => .ports PortIn.idle) ∧ NoControl (fun _ => takeByte) :=
  ⟨⟨fun _ => rfl, by decide⟩, ⟨fun _ => rfl, by decide, by decide⟩, fun _ => ⟨rfl, rfl⟩, fun _ => ⟨rfl, rfl⟩⟩

end Sys2Proof.Tests
end

namespace Sys2Proof.Machine

/-! ### The PUSH rows where they are enabled (R102, R103, R105, R106) -/

theorem exec_pushEncFirst_of_enabled {s : State} (b : Byte) (h : s.eng.canPushEncFirst = true) :
    exec (.pushEncFirst b) s = .next ((s.setEng (s.eng.holdFirst b)).recordAccepted b) :=
  if_pos h

theorem exec_pushEncSecond_of_enabled {s : State} (b : Byte) (h : s.eng.canPushEncSecond = true) :
    exec (.pushEncSecond b) s = .next
      ((s.setEng (s.eng.emit (enc s.eng.variant s.eng.heldByte (some b)).bytes).releaseHold).recordAccepted b) :=
  if_pos h

theorem exec_pushDecPartial_of_enabled {s : State} (b : Byte) (h : s.eng.canPushDecPartial = true) :
    exec (.pushDecPartial b) s = .next ((s.setEng (s.eng.collect b)).recordAccepted b) :=
  if_pos h

theorem exec_pushDecLast_of_enabled {s : State} (b : Byte) (h : s.eng.canPushDecLast = true) :
    exec (.pushDecLast b) s =
      .next ((s.setEng (s.eng.emit (dec (s.eng.collected b))).releaseAcc).recordAccepted b) :=
  if_pos h

/-- The record's frame of every accepted data byte, whatever the row does to the engine (log entry 2). -/
theorem State.setEng_recordAccepted_env (s : State) (e : Engine) (b : Byte) :
    ((s.setEng e).recordAccepted b).env = { s.env with accepted := s.env.accepted ++ [b] } := rfl

/-- Settles O25: the hypotheses are each row's enabling condition, and an enabled row records its byte once and writes
only the engine besides. -/
theorem acceptedBytesAreRecorded : Obligations.AcceptedBytesAreRecorded := by
  intro s b hrun hempty
  refine ⟨fun hdir hhold => ?_, fun hdir hhold => ?_, fun hdir hcnt => ?_, fun hdir hcnt => ?_⟩
  · have enabled := s.eng.canPushEncFirst_iff.mpr ⟨hrun, hempty, hdir, hhold⟩
    exact ⟨_, exec_pushEncFirst_of_enabled b enabled, s.setEng_recordAccepted_env _ b⟩
  · have enabled := s.eng.canPushEncSecond_iff.mpr ⟨hrun, hempty, hdir, hhold⟩
    exact ⟨_, exec_pushEncSecond_of_enabled b enabled, s.setEng_recordAccepted_env _ b⟩
  · have enabled := s.eng.canPushDecPartial_iff.mpr ⟨hrun, hempty, hdir, hcnt⟩
    exact ⟨_, exec_pushDecPartial_of_enabled b enabled, s.setEng_recordAccepted_env _ b⟩
  · have enabled := s.eng.canPushDecLast_iff.mpr ⟨hrun, hempty, hdir, hcnt⟩
    exact ⟨_, exec_pushDecLast_of_enabled b enabled, s.setEng_recordAccepted_env _ b⟩

end Sys2Proof.Machine

namespace Sys2Proof.Machine

/-! ### The engine's next state as a function of the operation and the engine alone (R10, R25) -/

/-- What an operation leaves in the engine: its rule's effect where the row is enabled, the same engine where it is not
(log entries 3 and 4). The datapath rows, NOP and the STATUS read never write the engine (R95, R123, R124). -/
def Engine.next (e : Engine) : Instr → Engine
  | .pushEncFirst b => if e.canPushEncFirst then e.holdFirst b else e
  | .pushEncSecond b =>
    if e.canPushEncSecond then (e.emit (enc e.variant e.heldByte (some b)).bytes).releaseHold else e
  | .eosEnc _ =>
    if e.canEosEnc then
      if e.holdV then (e.emit (enc e.variant e.heldByte none).bytes).releaseHold.finish else e.finish
    else e
  | .pushDecPartial b => if e.canPushDecPartial then e.collect b else e
  | .pushDecLast b => if e.canPushDecLast then (e.emit (dec (e.collected b))).releaseAcc else e
  | .eosDec _ =>
    if e.canEosDec then if e.accCnt = 0#2 then e.finish else e.raiseTruncated e.accCnt else e
  | .pop => if e.canPop then e.dropHead else e
  | .reset _ => e.toReset
  | .start v d => e.openSession v d
  | _ => e

/-- Every operation answers a next state, and its engine is `Engine.next`. -/
theorem exec_eq_next (i : Instr) (s : State) : ∃ t, exec i s = .next t ∧ t.eng = s.eng.next i := by
  cases i
  case pushEncFirst | pushEncSecond | eosEnc | pushDecPartial | pushDecLast | eosDec =>
    simp only [exec, execPushEncFirst, execPushEncSecond, execEosEnc, execPushDecPartial, execPushDecLast, execEosDec,
      Engine.next]
    (repeat' split) <;> exact ⟨_, rfl, rfl⟩
  case pop =>
    cases hobuf : s.eng.obuf <;> simp [exec, execPop, Engine.next, Engine.canPop, hobuf]
  all_goals exact ⟨_, rfl, rfl⟩

theorem exec_eng {i : Instr} {s t : State} (h : exec i s = .next t) : t.eng = s.eng.next i := by
  obtain ⟨u, hu, heng⟩ := exec_eq_next i s
  cases h.symm.trans hu
  exact heng

/-- Settles O55: the engine's next state is a function of the engine and the operation. -/
theorem engineIgnoresTheRecord : Obligations.EngineIgnoresTheRecord := by
  intro i s s' t t' heq h h'
  rw [exec_eng h, exec_eng h', heq]

/-! ### The writers of R10 -/

/-- Settles O51: each row's effect, read field by field. -/
theorem elementsChangedOnlyByTheirWriters : Obligations.ElementsChangedOnlyByTheirWriters := by
  intro i s t h hstart hreset
  rw [exec_eng h]
  cases i
  case start v d => exact absurd rfl (hstart v d)
  case reset x => exact absurd rfl (hreset x)
  case pushEncFirst | pushEncSecond | pushDecPartial | pushDecLast | pop =>
    simp only [Engine.next]
    split <;> simp
  case eosEnc | eosDec =>
    simp only [Engine.next]
    (repeat' split) <;> simp
  all_goals simp [Engine.next]

/-- Settles O50, which is the first two fields of O51. -/
theorem configurationFixedWithinASession : Obligations.ConfigurationFixedWithinASession := by
  intro i s t h hstart hreset
  obtain ⟨hvariant, hdir, -⟩ := elementsChangedOnlyByTheirWriters i s t h hstart hreset
  exact ⟨hvariant, hdir⟩

/-- Nothing but RESET, START and an EOS changes PHASE (R10). -/
theorem exec_phase_eq {i : Instr} {s t : State} (h : exec i s = .next t) (hstart : ∀ v d, i ≠ .start v d)
    (hreset : ∀ x, i ≠ .reset x) (henc : ∀ x, i ≠ .eosEnc x) (hdec : ∀ x, i ≠ .eosDec x) :
    t.eng.phase = s.eng.phase := by
  obtain ⟨-, -, hphase, -⟩ := elementsChangedOnlyByTheirWriters i s t h hstart hreset
  by_contra hne
  obtain ⟨x, hi | hi⟩ := hphase hne
  · exact henc x hi
  · exact hdec x hi

/-! ### The transitions of PHASE (R15) -/

theorem Engine.next_eosEnc_phase (e : Engine) (x : Byte) :
    (e.next (.eosEnc x)).phase = if e.canEosEnc then .done else e.phase := by
  simp only [Engine.next]
  (repeat' split) <;> rfl

theorem Engine.next_eosDec_of_enabled {e : Engine} (x : Byte) (h : e.canEosDec = true) :
    e.next (.eosDec x) = if e.accCnt = 0#2 then e.finish else e.raiseTruncated e.accCnt :=
  if_pos h

theorem Engine.next_eosDec_of_disabled {e : Engine} (x : Byte) (h : ¬ e.canEosDec = true) : e.next (.eosDec x) = e :=
  if_neg h

/-- Settles O52: an enabled EOS takes one of its rule's exits; a disabled one, like every operation that is neither an
EOS nor RESET nor START, leaves PHASE alone. -/
theorem phaseTransitions : Obligations.PhaseTransitions := by
  intro i s t h
  cases i
  case reset x => cases h; exact .inl ⟨⟨x, rfl⟩, rfl⟩
  case start v d => cases h; exact .inr (.inl ⟨⟨v, d, rfl⟩, rfl⟩)
  case eosEnc x =>
    have hphase := s.eng.next_eosEnc_phase x
    rw [← exec_eng h] at hphase
    by_cases en : s.eng.canEosEnc = true
    · obtain ⟨hrun, hempty, hdir⟩ := s.eng.canEosEnc_iff.mp en
      exact .inr (.inr (.inl ⟨hrun, hempty, .inl ⟨⟨x, rfl⟩, hdir⟩, hphase.trans (if_pos en)⟩))
    · refine .inr (.inr (.inr (.inr ⟨nofun, nofun, ?_, hphase.trans (if_neg en)⟩)))
      rintro ⟨hrun, hempty, ⟨-, hdir⟩ | ⟨⟨_, hi⟩, -⟩⟩
      · exact en (s.eng.canEosEnc_iff.mpr ⟨hrun, hempty, hdir⟩)
      · cases hi
  case eosDec x =>
    have heng := exec_eng h
    by_cases en : s.eng.canEosDec = true
    · obtain ⟨hrun, hempty, hdir⟩ := s.eng.canEosDec_iff.mp en
      rw [Engine.next_eosDec_of_enabled x en] at heng
      by_cases hcnt : s.eng.accCnt = 0#2
      · rw [if_pos hcnt] at heng
        exact .inr (.inr (.inl ⟨hrun, hempty, .inr ⟨⟨x, rfl⟩, hdir, hcnt⟩, by simp [heng]⟩))
      · rw [if_neg hcnt] at heng
        have hpos : 0 < s.eng.accCnt.toNat := by bv_omega
        exact .inr (.inr (.inr (.inl ⟨hrun, hempty, ⟨x, rfl⟩, hdir, hpos, by simp [heng], by simp [heng]⟩)))
    · rw [Engine.next_eosDec_of_disabled x en] at heng
      refine .inr (.inr (.inr (.inr ⟨nofun, nofun, ?_, by rw [heng]⟩)))
      rintro ⟨hrun, hempty, ⟨⟨_, hi⟩, -⟩ | ⟨-, hdir⟩⟩
      · cases hi
      · exact en (s.eng.canEosDec_iff.mpr ⟨hrun, hempty, hdir⟩)
  all_goals
    refine .inr (.inr (.inr (.inr ⟨nofun, nofun, ?_, exec_phase_eq h nofun nofun nofun nofun⟩)))
    rintro ⟨-, -, ⟨⟨_, hi⟩, -⟩ | ⟨⟨_, hi⟩, -⟩⟩ <;> cases hi

end Sys2Proof.Machine

namespace Sys2Proof

theorem Variant.width_pos (v : Variant) : 1 ≤ v.width := by cases v <;> decide

namespace Machine

/-! ### The engine's invariant (R17 to R19, R21) -/

/-- The invariant in a running encode session. -/
theorem Engine.sound_iff_of_run_enc (e : Engine) (hrun : e.phase = .run) (hdir : e.dir = .enc) :
    e.Sound ↔ e.accCnt = 0#2 ∧ e.errK = 0#2 ∧ e.obuf.length ≤ e.variant.width ∧ (e.obuf ≠ [] → e.holdV = false) := by
  refine ⟨fun ⟨hgroup, _, _, herr, hout, hseq, _⟩ => ?_, fun ⟨hcnt, herr, hout, hseq⟩ => ?_⟩
  · exact ⟨hgroup.1 hdir, herr.2 (by simp [hrun]), hout.1 hdir, fun h => (hseq h).1⟩
  · exact ⟨⟨fun _ => hcnt, fun hd => (nomatch hdir.symm.trans hd)⟩, absurd hrun, fun hp => (nomatch hrun.symm.trans hp),
      ⟨fun hp => (nomatch hrun.symm.trans hp), fun _ => herr⟩, ⟨fun _ => hout, fun hd => (nomatch hdir.symm.trans hd)⟩,
      fun h => ⟨hseq h, hcnt⟩, by simpa [hcnt] using e.variant.width_pos⟩

/-- The invariant in a running decode session. -/
theorem Engine.sound_iff_of_run_dec (e : Engine) (hrun : e.phase = .run) (hdir : e.dir = .dec) :
    e.Sound ↔ e.holdV = false ∧ e.errK = 0#2 ∧ e.obuf.length ≤ 2 ∧ (e.obuf ≠ [] → e.accCnt = 0#2) ∧
      e.accCnt.toNat + 1 ≤ e.variant.width := by
  refine ⟨fun ⟨hgroup, _, _, herr, hout, hseq, hcnt⟩ => ?_, fun ⟨hhold, herr, hout, hseq, hcnt⟩ => ?_⟩
  · exact ⟨hgroup.2 hdir, herr.2 (by simp [hrun]), hout.2 hdir, fun h => (hseq h).2, hcnt⟩
  · exact ⟨⟨fun hd => (nomatch hdir.symm.trans hd), fun _ => hhold⟩, absurd hrun, fun hp => (nomatch hrun.symm.trans hp),
      ⟨fun hp => (nomatch hrun.symm.trans hp), fun _ => herr⟩, ⟨fun hd => (nomatch hdir.symm.trans hd), fun _ => hout⟩,
      fun h => ⟨hhold, hseq h⟩, hcnt⟩

theorem Engine.sound_reset : Engine.reset.Sound := by decide

theorem Engine.sound_openSession (e : Engine) (v : Variant) (d : Dir) : (e.openSession v d).Sound := by
  cases d
  · exact (Engine.sound_iff_of_run_enc _ rfl rfl).mpr (by simp)
  · exact (Engine.sound_iff_of_run_dec _ rfl rfl).mpr (by simpa using v.width_pos)

theorem Engine.Sound.holdFirst {e : Engine} (h : e.Sound) (b : Byte) (en : e.canPushEncFirst = true) :
    (e.holdFirst b).Sound := by
  obtain ⟨hrun, hempty, hdir, -⟩ := e.canPushEncFirst_iff.mp en
  obtain ⟨hcnt, herr, -⟩ := (e.sound_iff_of_run_enc hrun hdir).mp h
  exact ((e.holdFirst b).sound_iff_of_run_enc hrun hdir).mpr (by simp [hcnt, herr, hempty])

/-- A whole unit enters an empty OBUF, and the held byte leaves with it (R103, R104). -/
theorem Engine.Sound.emitUnit {e : Engine} (h : e.Sound) (b0 : Byte) (o : Option Byte) (hrun : e.phase = .run)
    (hempty : e.obuf = []) (hdir : e.dir = .enc) : (e.emit (enc e.variant b0 o).bytes).releaseHold.Sound := by
  obtain ⟨hcnt, herr, -⟩ := (e.sound_iff_of_run_enc hrun hdir).mp h
  refine ((e.emit _).releaseHold.sound_iff_of_run_enc hrun hdir).mpr ?_
  simp [hcnt, herr, hempty, enc_bytes_length]

theorem Engine.Sound.collect {e : Engine} (h : e.Sound) (b : Byte) (en : e.canPushDecPartial = true) :
    (e.collect b).Sound := by
  obtain ⟨hrun, hempty, hdir, hlt⟩ := e.canPushDecPartial_iff.mp en
  obtain ⟨hhold, herr, -⟩ := (e.sound_iff_of_run_dec hrun hdir).mp h
  have hcnt : (e.accCnt + 1#2).toNat ≤ e.accCnt.toNat + 1 := by
    rw [BitVec.toNat_add]
    exact Nat.mod_le _ _
  have hshort : (e.accCnt + 1#2).toNat + 1 ≤ e.variant.width := by omega
  exact ((e.collect b).sound_iff_of_run_dec hrun hdir).mpr ⟨hhold, herr, by simp [hempty], absurd hempty, hshort⟩

/-- A decoded group is at most two bytes (R87), and ACC_CNT falls to 0 (R106). -/
theorem Engine.Sound.emitGroup {e : Engine} (h : e.Sound) (b : Byte) (en : e.canPushDecLast = true) :
    (e.emit (dec (e.collected b))).releaseAcc.Sound := by
  obtain ⟨hrun, hempty, hdir, -⟩ := e.canPushDecLast_iff.mp en
  obtain ⟨hhold, herr, -⟩ := (e.sound_iff_of_run_dec hrun hdir).mp h
  have hlen : (dec (e.collected b)).length ≤ 2 := by rw [dec_length]; split <;> decide
  refine ((e.emit _).releaseAcc.sound_iff_of_run_dec hrun hdir).mpr ?_
  simpa [hhold, herr, hempty, hlen] using e.variant.width_pos

/-- DONE is entered from RUN with both groupers empty (R104, R107). -/
theorem Engine.Sound.finish {e : Engine} (h : e.Sound) (hrun : e.phase = .run) (hhold : e.holdV = false)
    (hcnt : e.accCnt = 0#2) : e.finish.Sound := by
  obtain ⟨hgroup, -, -, herr, hout, hseq, hshort⟩ := h
  exact ⟨hgroup, fun _ => ⟨hhold, hcnt⟩, nofun, ⟨nofun, fun _ => herr.2 (by simp [hrun])⟩, hout, hseq, hshort⟩

/-- TruncatedCharacter(k) with 1 ≤ k ≤ N-1, since ACC_CNT was in 0..N-1 (R17, R19, R131). -/
theorem Engine.Sound.raiseTruncated {e : Engine} (h : e.Sound) (en : e.canEosDec = true) (hcnt : e.accCnt ≠ 0#2) :
    (e.raiseTruncated e.accCnt).Sound := by
  obtain ⟨hrun, hempty, hdir⟩ := e.canEosDec_iff.mp en
  obtain ⟨hhold, -, -, -, hshort⟩ := (e.sound_iff_of_run_dec hrun hdir).mp h
  have hpos : 1 ≤ e.accCnt.toNat := by bv_omega
  refine ⟨⟨fun _ => rfl, fun _ => hhold⟩, fun _ => ⟨hhold, rfl⟩, nofun,
    ⟨fun _ => ⟨hdir, hempty, hpos, hshort⟩, absurd rfl⟩, ⟨fun _ => ?_, fun _ => ?_⟩, absurd hempty, e.variant.width_pos⟩
  all_goals simp [hempty]

/-- A POP happens in RUN or DONE only: IDLE and ERR have an empty OBUF (R21). -/
theorem Engine.Sound.dropHead {e : Engine} (h : e.Sound) (en : e.canPop = true) : e.dropHead.Sound := by
  have hne : e.obuf ≠ [] := by simpa [Engine.canPop] using en
  obtain ⟨hgroup, houtside, hidle, herr, hout, hseq, hshort⟩ := h
  have hshorter : e.obuf.tail.length ≤ e.obuf.length := by simp
  refine ⟨hgroup, houtside, fun hp => ?_, ⟨fun hp => ?_, herr.2⟩,
    ⟨fun hd => hshorter.trans (hout.1 hd), fun hd => hshorter.trans (hout.2 hd)⟩, fun _ => hseq hne, hshort⟩
  · exact absurd (congrArg Engine.obuf (hidle hp)) hne
  · obtain ⟨-, hempty, -⟩ := herr.1 hp
    exact absurd hempty hne

/-- A row that writes the engine only where it is enabled keeps the invariant if its effect does (R109). -/
theorem Engine.Sound.ite {e e' : Engine} {c : Bool} (h : e.Sound) (effect : c = true → e'.Sound) :
    (if c then e' else e).Sound := by
  split
  · exact effect ‹_›
  · exact h

theorem Engine.Sound.next_pushEncSecond {e : Engine} (h : e.Sound) (b : Byte) : (e.next (.pushEncSecond b)).Sound := by
  refine h.ite fun en => ?_
  obtain ⟨hrun, hempty, hdir, -⟩ := e.canPushEncSecond_iff.mp en
  exact h.emitUnit e.heldByte (some b) hrun hempty hdir

theorem Engine.Sound.next_eosEnc {e : Engine} (h : e.Sound) (x : Byte) : (e.next (.eosEnc x)).Sound := by
  refine h.ite fun en => ?_
  obtain ⟨hrun, hempty, hdir⟩ := e.canEosEnc_iff.mp en
  obtain ⟨hcnt, -⟩ := (e.sound_iff_of_run_enc hrun hdir).mp h
  split
  case isTrue => exact (h.emitUnit e.heldByte none hrun hempty hdir).finish hrun rfl hcnt
  case isFalse hhold => exact h.finish hrun (by simpa using hhold) hcnt

theorem Engine.Sound.next_eosDec {e : Engine} (h : e.Sound) (x : Byte) : (e.next (.eosDec x)).Sound := by
  refine h.ite fun en => ?_
  obtain ⟨hrun, -, hdir⟩ := e.canEosDec_iff.mp en
  obtain ⟨hhold, -⟩ := (e.sound_iff_of_run_dec hrun hdir).mp h
  split
  case isTrue hcnt => exact h.finish hrun hhold hcnt
  case isFalse hcnt => exact h.raiseTruncated en hcnt

theorem Engine.Sound.next {e : Engine} (h : e.Sound) (i : Instr) : (e.next i).Sound := by
  cases i
  case pushEncFirst b => exact h.ite (h.holdFirst b)
  case pushEncSecond b => exact h.next_pushEncSecond b
  case eosEnc x => exact h.next_eosEnc x
  case pushDecPartial b => exact h.ite (h.collect b)
  case pushDecLast b => exact h.ite (h.emitGroup b)
  case eosDec x => exact h.next_eosDec x
  case pop => exact h.ite h.dropHead
  case reset => exact Engine.sound_reset
  case start v d => exact e.sound_openSession v d
  all_goals exact h

/-- Settles O43: a step leaves the state or runs one operation, and every operation keeps the invariant. -/
theorem soundEngineKeptByStep : Obligations.SoundEngineKeptByStep := by
  intro s t h hstep
  obtain ⟨-, rfl⟩ | ⟨x, rest, i, -, -, hexec⟩ := step_cases hstep
  · exact h
  · rw [exec_eng hexec]
    exact h.next i

/-- Settles O44. -/
theorem soundEngineAtReset : Obligations.SoundEngineAtReset :=
  Engine.sound_reset

/-! ### The state after reset (R23, R151) -/

/-- Settles O34. -/
theorem stateAfterReset : Obligations.StateAfterReset :=
  ⟨rfl, rfl, fun _ => ⟨rfl, rfl⟩⟩

/-- Settles O46: the record of R23's state is empty, and the other clauses are about the phases after IDLE. -/
theorem faithfulStreamAtReset : Obligations.FaithfulStreamAtReset :=
  ⟨fun _ => ⟨rfl, rfl⟩, absurd rfl, absurd rfl⟩

end Machine

end Sys2Proof

namespace Sys2Proof

theorem Variant.toBit_getLsbD (v : Variant) : v.toBit.getLsbD 0 = (v == .ext) := by
  cases v <;> rfl

theorem Dir.toBit_getLsbD (d : Dir) : d.toBit.getLsbD 0 = (d == .dec) := by
  cases d <;> rfl

namespace Machine

/-! ### STATUS (R20) -/

/-- A word of STATUS's layout (R20), its width left as the sum of its fields' widths. -/
def statusWord (errK accCnt : BitVec 2) (holdV : BitVec 1) (obufCnt : BitVec 3) (dir variant : BitVec 1)
    (phase : BitVec 2) : BitVec (4 + 2 + 2 + 1 + 3 + 1 + 1 + 2) :=
  0#4 ++ errK ++ accCnt ++ holdV ++ obufCnt ++ dir ++ variant ++ phase

theorem statusWord_fields (k a p : BitVec 2) (h d v : BitVec 1) (n : BitVec 3) :
    (statusWord k a h n d v p).extractLsb' 0 2 = p ∧ (statusWord k a h n d v p).getLsbD 2 = v.getLsbD 0 ∧
    (statusWord k a h n d v p).getLsbD 3 = d.getLsbD 0 ∧ (statusWord k a h n d v p).extractLsb' 4 3 = n ∧
    (statusWord k a h n d v p).getLsbD 7 = h.getLsbD 0 ∧ (statusWord k a h n d v p).extractLsb' 8 2 = a ∧
    (statusWord k a h n d v p).extractLsb' 10 2 = k ∧ (statusWord k a h n d v p).extractLsb' 12 4 = 0#4 := by
  simp only [statusWord, BitVec.extractLsb'_append_eq_of_le, BitVec.extractLsb'_append_eq_right,
    BitVec.extractLsb'_eq_self, BitVec.getLsbD_append, Nat.reduceSub, Nat.reduceLeDiff, Nat.reduceLT, Nat.lt_irrefl,
    if_true, if_false, and_self]

theorem Engine.status_eq_statusWord (e : Engine) :
    e.status = statusWord e.errK e.accCnt (BitVec.ofBool e.holdV) (BitVec.ofNat 3 e.obuf.length) e.dir.toBit
      e.variant.toBit e.phase.toBits := rfl

/-- Settles O31: STATUS is its fields put together, and 4 bytes are few enough for the 3 bits of OBUF_CNT. -/
theorem statusFieldsShowTheElements : Obligations.StatusFieldsShowTheElements := by
  intro e hlen
  have hcnt : e.obuf.length % 8 = e.obuf.length := Nat.mod_eq_of_lt (by omega)
  obtain ⟨hphase, hvariant, hdir, hobuf, hholdV, hacc, herr, hzero⟩ :=
    statusWord_fields e.errK e.accCnt e.phase.toBits (BitVec.ofBool e.holdV) e.dir.toBit e.variant.toBit
      (BitVec.ofNat 3 e.obuf.length)
  rw [e.status_eq_statusWord]
  refine ⟨?_, hvariant.trans e.variant.toBit_getLsbD, hdir.trans e.dir.toBit_getLsbD, ?_, hholdV.trans ?_, hacc, herr,
    hzero⟩
  · rw [hphase]
    cases e.phase <;> rfl
  · rw [hobuf, BitVec.toNat_ofNat, hcnt]
  · simp

end Machine

end Sys2Proof

namespace Sys2Proof

/-! ### The forms of R63 as match and mask, byte by byte -/

theorem bitVec_append_inj {m n : Nat} (a c : BitVec m) (b d : BitVec n) : a ++ b = c ++ d ↔ a = c ∧ b = d := by
  refine ⟨fun h => ?_, fun ⟨ha, hb⟩ => by rw [ha, hb]⟩
  have hlow : b = d := by
    rw [← BitVec.extractLsb'_append_eq_right (a := a) (b := b), h, BitVec.extractLsb'_append_eq_right]
  exact ⟨(BitVec.append_left_inj b).mp (hlow ▸ h), hlow⟩

theorem word_and_eq_iff (a b c d m0 m1 m2 m3 v0 v1 v2 v3 : Byte) :
    (a ++ b ++ c ++ d) &&& (m0 ++ m1 ++ m2 ++ m3) = v0 ++ v1 ++ v2 ++ v3 ↔
      a &&& m0 = v0 ∧ b &&& m1 = v1 ∧ c &&& m2 = v2 ∧ d &&& m3 = v3 := by
  simp only [BitVec.and_append, bitVec_append_inj, and_assoc]

theorem and_eq_iff_isContinuation : ∀ b : Byte, b &&& 0xC0#8 = 0x80#8 ↔ isContinuation b = true := by decide

theorem and_eq_iff_stdPairLead : ∀ b : Byte, b &&& 0xFC#8 = 0xE0#8 ↔ b.extractLsb' 2 6 = 0b111000#6 := by decide

theorem and_eq_iff_stdSingleLead : ∀ b : Byte, b &&& 0xFE#8 = 0xE4#8 ↔ b.extractLsb' 1 7 = 0b1110010#7 := by decide

theorem and_eq_iff_extPairLead : ∀ b : Byte, b &&& 0xFC#8 = 0x90#8 ↔ b.extractLsb' 2 6 = 0b100100#6 := by decide

theorem and_eq_iff_extSingleLead : ∀ b : Byte, b &&& 0xFE#8 = 0x94#8 ↔ b.extractLsb' 1 7 = 0b1001010#7 := by decide

theorem and_ones_eq_iff (b v : Byte) : b &&& 0xFF#8 = v ↔ b = v := by
  rw [show b &&& 0xFF#8 = b from BitVec.and_allOnes]

theorem CodeUnit.hasForm_iff (u : CodeUnit) (f : UnitForm) :
    u.hasForm f = true ↔ u.variant = f.variant ∧ u.word &&& f.maskWord = f.matchWord := by
  simp [CodeUnit.hasForm]

/-- A form of the unit's own variant, its mask and match given byte by byte. -/
theorem CodeUnit.hasForm_iff_bytes {u : CodeUnit} {f : UnitForm} {b0 b1 b2 b3 : Byte} (m0 m1 m2 m3 v0 v1 v2 v3 : Byte)
    (hvariant : u.variant = f.variant) (hword : u.word = b0 ++ b1 ++ b2 ++ b3)
    (hmask : f.maskWord = m0 ++ m1 ++ m2 ++ m3) (hmatch : f.matchWord = v0 ++ v1 ++ v2 ++ v3) :
    u.hasForm f = true ↔ b0 &&& m0 = v0 ∧ b1 &&& m1 = v1 ∧ b2 &&& m2 = v2 ∧ b3 &&& m3 = v3 := by
  rw [CodeUnit.hasForm_iff, and_iff_right hvariant, hword, hmask, hmatch]
  exact word_and_eq_iff b0 b1 b2 b3 m0 m1 m2 m3 v0 v1 v2 v3

theorem hasForm_stdPair_iff (u0 u1 u2 : Byte) :
    (CodeUnit.std u0 u1 u2).hasForm .stdPair = true ↔
      u0.extractLsb' 2 6 = 0b111000#6 ∧ isContinuation u1 = true ∧ isContinuation u2 = true := by
  rw [CodeUnit.hasForm_iff_bytes 0x00#8 0xFC#8 0xC0#8 0xC0#8 0x00#8 0xE0#8 0x80#8 0x80#8 rfl rfl rfl rfl,
    and_iff_right BitVec.and_zero, and_eq_iff_stdPairLead, and_eq_iff_isContinuation, and_eq_iff_isContinuation]

theorem hasForm_stdSingle_iff (u0 u1 u2 : Byte) :
    (CodeUnit.std u0 u1 u2).hasForm .stdSingle = true ↔
      u0.extractLsb' 1 7 = 0b1110010#7 ∧ isContinuation u1 = true ∧ u2 = 0x80#8 := by
  rw [CodeUnit.hasForm_iff_bytes 0x00#8 0xFE#8 0xC0#8 0xFF#8 0x00#8 0xE4#8 0x80#8 0x80#8 rfl rfl rfl rfl,
    and_iff_right BitVec.and_zero, and_eq_iff_stdSingleLead, and_eq_iff_isContinuation, and_ones_eq_iff]

theorem hasForm_extPair_iff (u0 u1 u2 u3 : Byte) :
    (CodeUnit.ext u0 u1 u2 u3).hasForm .extPair = true ↔
      u0 = 0xF0#8 ∧ u1.extractLsb' 2 6 = 0b100100#6 ∧ isContinuation u2 = true ∧ isContinuation u3 = true := by
  rw [CodeUnit.hasForm_iff_bytes 0xFF#8 0xFC#8 0xC0#8 0xC0#8 0xF0#8 0x90#8 0x80#8 0x80#8 rfl rfl rfl rfl,
    and_ones_eq_iff, and_eq_iff_extPairLead, and_eq_iff_isContinuation, and_eq_iff_isContinuation]

theorem hasForm_extSingle_iff (u0 u1 u2 u3 : Byte) :
    (CodeUnit.ext u0 u1 u2 u3).hasForm .extSingle = true ↔
      u0 = 0xF0#8 ∧ u1.extractLsb' 1 7 = 0b1001010#7 ∧ isContinuation u2 = true ∧ u3 = 0x80#8 := by
  rw [CodeUnit.hasForm_iff_bytes 0xFF#8 0xFE#8 0xC0#8 0xFF#8 0xF0#8 0x94#8 0x80#8 0x80#8 rfl rfl rfl rfl,
    and_ones_eq_iff, and_eq_iff_extSingleLead, and_eq_iff_isContinuation, and_ones_eq_iff]

/-- A unit has no form of R63 where it has neither form of its own variant. -/
theorem hasForm_std_false_iff (u0 u1 u2 : Byte) :
    (∀ f, (CodeUnit.std u0 u1 u2).hasForm f = false) ↔
      ¬ (CodeUnit.std u0 u1 u2).hasForm .stdPair = true ∧ ¬ (CodeUnit.std u0 u1 u2).hasForm .stdSingle = true := by
  simp only [Bool.not_eq_true]
  exact ⟨fun h => ⟨h _, h _⟩, fun ⟨hpair, hsingle⟩ f =>
    match f with | .stdPair => hpair | .stdSingle => hsingle | .extPair => rfl | .extSingle => rfl⟩

theorem hasForm_ext_false_iff (u0 u1 u2 u3 : Byte) :
    (∀ f, (CodeUnit.ext u0 u1 u2 u3).hasForm f = false) ↔
      ¬ (CodeUnit.ext u0 u1 u2 u3).hasForm .extPair = true ∧ ¬ (CodeUnit.ext u0 u1 u2 u3).hasForm .extSingle = true := by
  simp only [Bool.not_eq_true]
  exact ⟨fun h => ⟨h _, h _⟩, fun ⟨hpair, hsingle⟩ f =>
    match f with | .stdPair => rfl | .stdSingle => rfl | .extPair => hpair | .extSingle => hsingle⟩

/-! ### Where a unit stands for no row -/

/-- Two rows tried in turn refuse a word where neither takes it. -/
theorem error_of_two_rows_iff {p q : Prop} [Decidable p] [Decidable q] (i j : Instr) (refusal r : Reject) :
    ((if p then .ok i else if q then .ok j else .error refusal) : Except Reject Instr) = .error r ↔
      r = refusal ∧ ¬ p ∧ ¬ q := by
  by_cases hp : p
  · simp [hp]
  · by_cases hq : q <;> simp [hp, hq, eq_comm (a := r)]

theorem decodeEncStd_error_iff (u0 u1 u2 : Byte) (r : Reject) :
    decodeEncStd u0 u1 u2 = .error r ↔ r = .unitForm ∧ ∀ f, (CodeUnit.std u0 u1 u2).hasForm f = false := by
  rw [hasForm_std_false_iff, hasForm_stdPair_iff, hasForm_stdSingle_iff, decodeEncStd]
  exact error_of_two_rows_iff _ _ _ r

theorem decodeEncExt_error_iff (u0 u1 u2 u3 : Byte) (r : Reject) :
    decodeEncExt u0 u1 u2 u3 = .error r ↔ r = .unitForm ∧ ∀ f, (CodeUnit.ext u0 u1 u2 u3).hasForm f = false := by
  rw [hasForm_ext_false_iff, hasForm_extPair_iff, hasForm_extSingle_iff, decodeEncExt]
  exact error_of_two_rows_iff _ _ _ r

theorem CodeUnit.bytes_length (w : CodeUnit) : w.bytes.length = w.variant.width := by
  cases w <;> rfl

theorem CodeUnit.exists_of_length {v : Variant} {u : List Byte} (h : u.length = v.width) :
    ∃ w : CodeUnit, u = w.bytes ∧ w.variant = v := by
  match v, u, h with
  | .std, [u0, u1, u2], _ => exact ⟨.std u0 u1 u2, rfl, rfl⟩
  | .ext, [u0, u1, u2, u3], _ => exact ⟨.ext u0 u1 u2 u3, rfl, rfl⟩

theorem decodeUnit_of_wrong_length {v : Variant} {u : List Byte} (d : Dir) (h : u.length ≠ v.width) :
    decodeUnit v d u = .error .unitLength := by
  unfold decodeUnit
  split
  case h_5 => rfl
  all_goals exact absurd rfl h

theorem decodeUnit_bytes_error_iff (w : CodeUnit) (d : Dir) (r : Reject) :
    decodeUnit w.variant d w.bytes = .error r ↔ r = .unitForm ∧ d = .enc ∧ ∀ f, w.hasForm f = false := by
  cases d
  case enc =>
    rw [and_iff_right rfl]
    cases w
    case std u0 u1 u2 => exact decodeEncStd_error_iff u0 u1 u2 r
    case ext u0 u1 u2 u3 => exact decodeEncExt_error_iff u0 u1 u2 u3 r
  case dec => cases w <;> simp [decodeUnit, CodeUnit.variant, CodeUnit.bytes]

/-- Everything a unit can be refused for (R63, R67; log entry 17). -/
theorem decodeUnit_error_iff (v : Variant) (d : Dir) (u : List Byte) (r : Reject) :
    decodeUnit v d u = .error r ↔
      (r = .unitLength ∧ u.length ≠ v.width) ∨
      (r = .unitForm ∧ d = .enc ∧ ∃ w : CodeUnit, u = w.bytes ∧ w.variant = v ∧ ∀ f, w.hasForm f = false) := by
  constructor
  · intro h
    by_cases hlen : u.length = v.width
    · obtain ⟨w, rfl, rfl⟩ := CodeUnit.exists_of_length hlen
      obtain ⟨hr, hdir, hform⟩ := (decodeUnit_bytes_error_iff w d r).mp h
      exact .inr ⟨hr, hdir, w, rfl, rfl, hform⟩
    · cases (decodeUnit_of_wrong_length d hlen).symm.trans h
      exact .inl ⟨rfl, hlen⟩
  · rintro (⟨rfl, hlen⟩ | ⟨hr, hdir, w, rfl, rfl, hform⟩)
    · exact decodeUnit_of_wrong_length d hlen
    · exact (decodeUnit_bytes_error_iff w d r).mpr ⟨hr, hdir, hform⟩

namespace Machine

/-! ### Where a port event stands for no row -/

theorem decodePush_error_iff (c : Selector) (b : Byte) (r : Reject) :
    decodePush c b = .error r ↔ r = .accCount ∧ c.dir = .dec ∧ c.variant.width ≤ c.accCnt.toNat := by
  unfold decodePush
  split
  case h_1 hdir => simp [hdir]
  case h_2 hdir =>
    split
    case isTrue hlt => exact ⟨nofun, fun ⟨_, _, hover⟩ => by omega⟩
    case isFalse hge =>
      split
      case isTrue heq => exact ⟨nofun, fun ⟨_, _, hover⟩ => by omega⟩
      case isFalse hne =>
        have hover : c.variant.width ≤ c.accCnt.toNat := by omega
        simp [hdir, hover, eq_comm (a := r)]

theorem decodeIn_inWord_error_iff (c : Selector) (p : PortIn) (r : Reject) :
    decodeIn c p.inWord = .error r ↔
      r = .accCount ∧ p.inEos = false ∧ c.dir = .dec ∧ c.variant.width ≤ c.accCnt.toNat := by
  obtain ⟨heos, hdata⟩ := inWord_fields p
  rw [decodeIn, heos, hdata]
  cases p.inEos
  case true => simp
  case false => simp [decodePush_error_iff]

/-- Without an accepted input the ports show RESET, START, a POP or NOP, and each of these is a row. -/
theorem fetch_ports_of_no_input {e : Engine} {p : PortIn} (h : ¬ (p.inValid && e.inReady p) = true) :
    ∃ i, fetch e (.ports p) = .ok i := by
  simp only [fetch, stimulusWord, eventWord, if_neg h]
  (repeat' split) <;> exact ⟨_, rfl⟩

theorem fetch_ports_error_iff (e : Engine) (p : PortIn) (r : Reject) :
    fetch e (.ports p) = .error r ↔
      r = .accCount ∧ e.phase = .run ∧ e.obuf = [] ∧ e.dir = .dec ∧ e.variant.width ≤ e.accCnt.toNat ∧
      p.rst = false ∧ p.start = false ∧ p.inValid = true ∧ p.inEos = false := by
  by_cases hin : (p.inValid && e.inReady p) = true
  · obtain ⟨hvalid, hready⟩ := Bool.and_eq_true_iff.mp hin
    obtain ⟨hacc, hrst, hstart⟩ := (inReady_iff e p).mp hready
    obtain ⟨hrun, hempty⟩ := e.accepting_iff.mp hacc
    rw [fetch_accepted e p hvalid hready, decodeIn_inWord_error_iff]
    exact ⟨fun ⟨hr, heos, hdir, hover⟩ => ⟨hr, hrun, hempty, hdir, hover, hrst, hstart, hvalid, heos⟩,
      fun ⟨hr, _, _, hdir, hover, _, _, _, heos⟩ => ⟨hr, heos, hdir, hover⟩⟩
  · obtain ⟨i, hi⟩ := fetch_ports_of_no_input hin
    rw [hi]
    refine ⟨nofun, fun ⟨_, hrun, hempty, _, _, hrst, hstart, hvalid, _⟩ => absurd ?_ hin⟩
    exact Bool.and_eq_true_iff.mpr ⟨hvalid, (inReady_iff e p).mpr ⟨e.accepting_iff.mpr ⟨hrun, hempty⟩, hrst, hstart⟩⟩

theorem fetch_unit_error_iff (e : Engine) (u : List Byte) (r : Reject) :
    fetch e (.unit u) = .error r ↔
      (r = .unitLength ∧ u.length ≠ e.variant.width) ∨
      (r = .unitForm ∧ e.dir = .enc ∧
        ∃ w : CodeUnit, u = w.bytes ∧ w.variant = e.variant ∧ ∀ f, w.hasForm f = false) :=
  decodeUnit_error_iff e.variant e.dir u r

theorem fetch_statusRead (e : Engine) : fetch e .statusRead = .ok .statusRead := rfl

/-! ### Where a step stops -/

theorem stopFor_inj (q r : Reject) : stopFor q = stopFor r ↔ q = r := by
  cases q <;> cases r <;> simp [stopFor]

theorem stopFor_ne_next (r : Reject) (t : State) : stopFor r ≠ .next t := by
  cases r <;> nofun

theorem stopFor_ne_notModelled (r : Reject) (m : String) : stopFor r ≠ .refused (.notModelled m) := by
  cases r <;> simp [stopFor]

theorem step_of_fetch_error {s : State} {x : Stimulus} {rest : List Stimulus} {r : Reject}
    (hp : s.env.pending = x :: rest) (hf : fetch s.eng x = .error r) : step s = stopFor r := by
  simp only [step, hp, hf]

theorem step_of_fetch_ok {s : State} {x : Stimulus} {rest : List Stimulus} {i : Instr}
    (hp : s.env.pending = x :: rest) (hf : fetch s.eng x = .ok i) : ∃ t, step s = .next t := by
  obtain ⟨t, ht, -⟩ := exec_eq_next i (s.setPending rest)
  exact ⟨t, by simp only [step, hp, hf, ht]⟩

/-- A step stops exactly where its stimulus is refused, and by that refusal's name: no meaning stops. -/
theorem step_eq_stopFor_iff {s : State} {x : Stimulus} {rest : List Stimulus} (hp : s.env.pending = x :: rest)
    (r : Reject) : step s = stopFor r ↔ fetch s.eng x = .error r := by
  cases hf : fetch s.eng x
  case ok i =>
    obtain ⟨t, ht⟩ := step_of_fetch_ok hp hf
    simp [ht, (stopFor_ne_next r t).symm]
  case error q => rw [step_of_fetch_error hp hf, stopFor_inj, Except.error.injEq]

theorem step_ne_notModelled (s : State) (m : String) : step s ≠ .refused (.notModelled m) := by
  cases hp : s.env.pending
  case nil => simp [step, hp]
  case cons x rest =>
    cases hf : fetch s.eng x
    case ok i =>
      obtain ⟨t, ht⟩ := step_of_fetch_ok hp hf
      simp [ht]
    case error r =>
      rw [step_of_fetch_error hp hf]
      exact stopFor_ne_notModelled r m

/-- Settles O40: each stop is one refusal of `fetch`, and each kind of stimulus says which refusals it can meet. -/
theorem stepStopsOnlyAtTheseStimuli : Obligations.StepStopsOnlyAtTheseStimuli := by
  intro s x rest hp
  refine ⟨(step_eq_stopFor_iff hp .unitLength).trans ?_, (step_eq_stopFor_iff hp .unitForm).trans ?_,
    (step_eq_stopFor_iff hp .accCount).trans ?_, step_ne_notModelled s⟩
  all_goals cases x <;> simp [fetch_ports_error_iff, fetch_unit_error_iff, fetch_statusRead, and_left_comm]

end Machine

end Sys2Proof

namespace Sys2Proof

theorem Variant.width_le (v : Variant) : v.width ≤ 4 := by cases v <;> decide

namespace Machine

/-! ### The words put out, read back group by group (R114) -/

theorem encodeStream_append (v : Variant) {paired : List Byte} (heven : paired.length % 2 = 0) (rest : List Byte) :
    encodeStream v (paired ++ rest) = encodeStream v paired ++ encodeStream v rest := by
  induction paired using encodeStream.induct with
  | case1 => rfl
  | case2 a => simp at heven
  | case3 a b r ih =>
    have hr : r.length % 2 = 0 := by simp only [List.length_cons] at heven; omega
    simp [encodeStream, ih hr]

theorem decodeStream_bytes_append (u : CodeUnit) (rest : List Byte) :
    decodeStream u.variant (u.bytes ++ rest) = dec u ++ decodeStream u.variant rest := by
  cases u <;> rfl

theorem decodeStream_bytes (u : CodeUnit) : decodeStream u.variant u.bytes = dec u := by
  cases u <;> exact List.append_nil _

theorem decodeStream_of_short {v : Variant} {t : List Byte} (h : t.length < v.width) : decodeStream v t = [] := by
  match v, t, h with
  | .std, [], _ | .std, [_], _ | .std, [_, _], _ => rfl
  | .ext, [], _ | .ext, [_], _ | .ext, [_, _], _ | .ext, [_, _, _], _ => rfl

theorem exists_unit_append {v : Variant} {t : List Byte} (h : v.width ≤ t.length) :
    ∃ (u : CodeUnit) (rest : List Byte), u.variant = v ∧ t = u.bytes ++ rest := by
  obtain ⟨u, hbytes, hvariant⟩ := CodeUnit.exists_of_length (List.length_take_of_le h)
  exact ⟨u, t.drop v.width, hvariant, by rw [← hbytes, List.take_append_drop]⟩

theorem decodeStream_append (v : Variant) {units : List Byte} {k : Nat} (hlen : units.length = k * v.width)
    (rest : List Byte) :
    decodeStream v (units ++ rest) = decodeStream v units ++ decodeStream v rest := by
  induction k generalizing units with
  | zero =>
    obtain rfl : units = [] := List.length_eq_zero_iff.mp (by simpa using hlen)
    rw [decodeStream_of_short (t := []) v.width_pos]
    rfl
  | succ k ih =>
    rw [Nat.succ_mul] at hlen
    obtain ⟨u, units', rfl, rfl⟩ := exists_unit_append (v := v) (t := units) (by omega)
    have hlen' : units'.length = k * u.variant.width := by
      rw [List.length_append, CodeUnit.bytes_length] at hlen
      omega
    rw [List.append_assoc, decodeStream_bytes_append, decodeStream_bytes_append, ih hlen', List.append_assoc]

/-! ### What HOLD and ACC keep of the accepted bytes (R16, R17) -/

theorem bit6_heldBits : ∀ a : Byte, bit6 ((heldBits a).setWidth 8) = bit6 a := by decide

theorem low6Byte_heldBits : ∀ a : Byte, low6Byte ((heldBits a).setWidth 8) = low6Byte a := by decide

/-- HOLD's 7 bits are all that the encoder reads of the byte held (R86). -/
theorem enc_of_heldBits (v : Variant) {e : Engine} {a : Byte} (hheld : heldBits a = e.hold) (o : Option Byte) :
    enc v e.heldByte o = enc v a o := by
  rw [Engine.heldByte, ← hheld]
  cases v <;> cases o <;>
    simp only [enc, encStdPair, encStdSingle, encExtPair, encExtSingle, bit6_heldBits, low6Byte_heldBits]

theorem Engine.partialUnit_length (e : Engine) : e.partialUnit.length = e.accCnt.toNat := by
  have := e.accCnt.isLt
  simp only [Engine.partialUnit, List.length_take, List.length_cons, List.length_nil]
  omega

@[simp] theorem Engine.releaseAcc_partialUnit (e : Engine) : e.releaseAcc.partialUnit = [] := rfl

/-- ACC_CNT below 3 is 0, 1 or 2: the index of an entry of ACC (R17). -/
theorem accCnt_cases : ∀ c : BitVec 2, c.toNat < 3 → c = 0#2 ∨ c = 1#2 ∨ c = 2#2 := by decide

theorem Engine.collect_partialUnit {e : Engine} (b : Byte) (h : e.accCnt.toNat < 3) :
    (e.collect b).partialUnit = e.partialUnit ++ [b] := by
  obtain hc | hc | hc := accCnt_cases e.accCnt h <;> simp [Engine.partialUnit, Acc.set, hc]

theorem Engine.collected_bytes {e : Engine} (b : Byte) (h : e.accCnt.toNat + 1 = e.variant.width) :
    (e.collected b).bytes = e.partialUnit ++ [b] := by
  have hcnt : e.accCnt.toNat = e.variant.width - 1 := by omega
  cases hv : e.variant <;> simp [Engine.collected, Engine.partialUnit, CodeUnit.bytes, hcnt, hv, Variant.width]

/-! ### The stream invariant, session by session -/

/-- What the consumer has of the session, with what still waits in OBUF. -/
def State.emitted (s : State) : List Byte := s.env.output ++ s.eng.obuf

@[simp] theorem State.emitted_recordAccepted (s : State) (b : Byte) : (s.recordAccepted b).emitted = s.emitted := rfl

@[simp] theorem State.emitted_setEng_eng (s : State) : (s.setEng s.eng).emitted = s.emitted := rfl

@[simp] theorem State.emitted_setEng_emit (s : State) (e : Engine) (xs : List Byte) :
    (s.setEng (e.emit xs)).emitted = (s.setEng e).emitted ++ xs := (List.append_assoc _ _ _).symm

@[simp] theorem State.emitted_setEng_releaseHold (s : State) (e : Engine) :
    (s.setEng e.releaseHold).emitted = (s.setEng e).emitted := rfl

@[simp] theorem State.emitted_setEng_releaseAcc (s : State) (e : Engine) :
    (s.setEng e.releaseAcc).emitted = (s.setEng e).emitted := rfl

@[simp] theorem State.emitted_setEng_finish (s : State) (e : Engine) :
    (s.setEng e.finish).emitted = (s.setEng e).emitted := rfl

theorem State.emitted_pop {s : State} {b : Byte} {rest : List Byte} (h : s.eng.obuf = b :: rest) :
    ((s.setEng s.eng.dropHead).recordPopped b).emitted = s.emitted := by
  simp [State.emitted, h]

theorem State.faithful_iff_of_enc {s : State} (hphase : s.eng.phase ≠ .idle) (hdir : s.eng.dir = .enc) :
    s.Faithful ↔ s.EncodesAccepted := by
  refine ⟨fun ⟨_, henc, _⟩ => henc, fun h => ⟨fun hp => absurd hp hphase, h, fun _ hd => ?_⟩⟩
  exact nomatch hdir.symm.trans hd

/-- No byte is held: everything accepted has been encoded. -/
theorem State.faithful_iff_of_paired {s : State} (hphase : s.eng.phase ≠ .idle) (hdir : s.eng.dir = .enc)
    (hhold : s.eng.holdV = false) :
    s.Faithful ↔ (s.eng.phase = .run → s.env.accepted.length % 2 = 0) ∧
      s.emitted = encodeStream s.eng.variant s.env.accepted := by
  rw [State.faithful_iff_of_enc hphase hdir]
  simp [State.EncodesAccepted, State.emitted, hphase, hdir, hhold]

/-- A byte is held: it is the last one accepted, and the pairs before it have been encoded. -/
theorem State.faithful_iff_of_holding {s : State} (hphase : s.eng.phase ≠ .idle) (hdir : s.eng.dir = .enc)
    (hhold : s.eng.holdV = true) :
    s.Faithful ↔ ∃ paired a, s.env.accepted = paired ++ [a] ∧ paired.length % 2 = 0 ∧ heldBits a = s.eng.hold ∧
      s.emitted = encodeStream s.eng.variant paired := by
  rw [State.faithful_iff_of_enc hphase hdir]
  constructor
  · intro h
    obtain ⟨hholding, -⟩ := h hphase hdir
    obtain ⟨hodd, hlast, hsum⟩ := hholding hhold
    obtain ⟨a, ha, hheld⟩ := Option.map_eq_some_iff.mp hlast
    refine ⟨s.env.accepted.dropLast, a, (List.dropLast_append_getLast? a ha).symm, ?_, hheld, hsum⟩
    rw [List.length_dropLast]
    omega
  · rintro ⟨paired, a, hacc, heven, hheld, hsum⟩ - -
    refine ⟨fun _ => ⟨?_, ?_, ?_⟩, fun h => nomatch hhold.symm.trans h⟩
    · rw [hacc, List.length_append, List.length_singleton]
      omega
    · simp [hacc, hheld]
    · rw [hacc, List.dropLast_concat]
      exact hsum

theorem State.faithful_iff_of_dec {s : State} (hphase : s.eng.phase ≠ .idle) (hdir : s.eng.dir = .dec) :
    s.Faithful ↔ s.DecodesAccepted := by
  refine ⟨fun ⟨_, _, hdec⟩ => hdec, fun h => ⟨fun hp => absurd hp hphase, fun _ hd => ?_, h⟩⟩
  exact nomatch hdir.symm.trans hd

/-- A running decode session: the accepted bytes are complete units, which have been decoded, and then the partial
unit in ACC. -/
theorem State.faithful_iff_of_run_dec {s : State} (hrun : s.eng.phase = .run) (hdir : s.eng.dir = .dec)
    (hshort : s.eng.accCnt.toNat < s.eng.variant.width) :
    s.Faithful ↔ ∃ units k, s.env.accepted = units ++ s.eng.partialUnit ∧ units.length = k * s.eng.variant.width ∧
      s.emitted = decodeStream s.eng.variant units := by
  have hphase : s.eng.phase ≠ .idle := by simp [hrun]
  have hpart : decodeStream s.eng.variant s.eng.partialUnit = [] :=
    decodeStream_of_short (s.eng.partialUnit_length.trans_lt hshort)
  rw [State.faithful_iff_of_dec hphase hdir]
  constructor
  · intro h
    obtain ⟨hsum, hacc, -, -⟩ := h hphase hdir
    obtain ⟨-, hdrop⟩ := hacc hrun
    have hlen := List.length_take_of_le (Nat.div_mul_le_self s.env.accepted.length s.eng.variant.width)
    have hsplit := List.take_append_drop (s.env.accepted.length / s.eng.variant.width * s.eng.variant.width)
      s.env.accepted
    rw [← hdrop] at hsplit
    refine ⟨_, _, hsplit.symm, hlen, ?_⟩
    rw [← List.append_nil (decodeStream _ _), ← hpart, ← decodeStream_append _ hlen, hsplit]
    exact hsum
  · rintro ⟨units, k, hacc, hlen, hsum⟩ - -
    have hlength : s.env.accepted.length = s.eng.accCnt.toNat + k * s.eng.variant.width := by
      rw [hacc, List.length_append, hlen, s.eng.partialUnit_length, Nat.add_comm]
    have hdiv : s.env.accepted.length / s.eng.variant.width = k := by
      rw [hlength, Nat.add_mul_div_right _ _ s.eng.variant.width_pos, Nat.div_eq_of_lt hshort, Nat.zero_add]
    refine ⟨?_, fun _ => ⟨?_, ?_⟩, fun hp => (nomatch hrun.symm.trans hp), fun hp => (nomatch hrun.symm.trans hp)⟩
    · rw [hacc, decodeStream_append _ hlen, hpart, List.append_nil]
      exact hsum
    · rw [hlength, Nat.add_mul_mod_self_right, Nat.mod_eq_of_lt hshort]
    · rw [hdiv, hacc, ← hlen, List.drop_left]

/-- In a running decode session ACC_CNT counts the bytes of the incomplete unit (R17). -/
theorem State.Faithful.dec_run {s : State} (h : s.Faithful) (hrun : s.eng.phase = .run) (hdir : s.eng.dir = .dec) :
    s.emitted = decodeStream s.eng.variant s.env.accepted ∧
      s.eng.accCnt.toNat = s.env.accepted.length % s.eng.variant.width := by
  have hphase : s.eng.phase ≠ .idle := by simp [hrun]
  obtain ⟨hsum, hacc, -, -⟩ := (State.faithful_iff_of_dec hphase hdir).mp h hphase hdir
  obtain ⟨hcnt, -⟩ := hacc hrun
  exact ⟨hsum, hcnt⟩

/-! ### Every operation keeps the stream invariant -/

theorem State.Faithful.execPushEncFirst {b : Byte} {s t : State} (h : s.Faithful)
    (hexec : execPushEncFirst b s = .next t) : t.Faithful := by
  obtain ⟨en, rfl⟩ | ⟨-, rfl⟩ := execPushEncFirst_cases hexec
  · obtain ⟨hrun, -, hdir, hhold⟩ := s.eng.canPushEncFirst_iff.mp en
    obtain ⟨heven, hsum⟩ := (State.faithful_iff_of_paired (by simp [hrun]) hdir hhold).mp h
    refine (State.faithful_iff_of_holding ?_ ?_ ?_).mpr ⟨_, b, rfl, heven hrun, rfl, hsum⟩
    all_goals simp [hrun, hdir]
  · exact h

theorem State.Faithful.execPushEncSecond {b : Byte} {s t : State} (h : s.Faithful)
    (hexec : execPushEncSecond b s = .next t) : t.Faithful := by
  obtain ⟨en, rfl⟩ | ⟨-, rfl⟩ := execPushEncSecond_cases hexec
  · obtain ⟨hrun, -, hdir, hhold⟩ := s.eng.canPushEncSecond_iff.mp en
    obtain ⟨paired, a, hacc, heven, hheld, hsum⟩ :=
      (State.faithful_iff_of_holding (by simp [hrun]) hdir hhold).mp h
    refine (State.faithful_iff_of_paired ?_ ?_ ?_).mpr ⟨fun _ => ?_, ?_⟩
    case refine_4 =>
      simp only [State.recordAccepted_accepted, State.setEng_env, hacc, List.length_append, List.length_singleton]
      omega
    case refine_5 =>
      simp [hacc, hsum, encodeStream_append _ heven, encodeStream, enc_of_heldBits _ hheld]
    all_goals simp [hrun, hdir]
  · exact h

theorem State.Faithful.execEosEnc {x : Byte} {s t : State} (h : s.Faithful)
    (hexec : execEosEnc x s = .next t) : t.Faithful := by
  obtain ⟨en, hhold, rfl⟩ | ⟨en, hhold, rfl⟩ | ⟨-, rfl⟩ := execEosEnc_cases hexec
  · obtain ⟨hrun, -, hdir⟩ := s.eng.canEosEnc_iff.mp en
    obtain ⟨paired, a, hacc, heven, hheld, hsum⟩ :=
      (State.faithful_iff_of_holding (by simp [hrun]) hdir hhold).mp h
    refine (State.faithful_iff_of_paired ?_ ?_ ?_).mpr ⟨nofun, ?_⟩
    case refine_4 => simp [hacc, hsum, encodeStream_append _ heven, encodeStream, enc_of_heldBits _ hheld]
    all_goals simp [hdir]
  · obtain ⟨hrun, -, hdir⟩ := s.eng.canEosEnc_iff.mp en
    obtain ⟨-, hsum⟩ := (State.faithful_iff_of_paired (by simp [hrun]) hdir hhold).mp h
    exact (State.faithful_iff_of_paired (s := s.setEng s.eng.finish) nofun hdir hhold).mpr ⟨nofun, hsum⟩
  · exact h

theorem State.Faithful.execPushDecPartial {b : Byte} {s t : State} (h : s.Faithful)
    (hexec : execPushDecPartial b s = .next t) : t.Faithful := by
  obtain ⟨en, rfl⟩ | ⟨-, rfl⟩ := execPushDecPartial_cases hexec
  · obtain ⟨hrun, -, hdir, hlt⟩ := s.eng.canPushDecPartial_iff.mp en
    obtain ⟨units, k, hacc, hlen, hsum⟩ := (State.faithful_iff_of_run_dec hrun hdir (by omega)).mp h
    have hwidth := s.eng.variant.width_le
    have hpart := s.eng.collect_partialUnit b (by omega)
    refine (State.faithful_iff_of_run_dec ?_ ?_ ?_).mpr ⟨units, k, ?_, hlen, hsum⟩
    · exact hrun
    · exact hdir
    · change (s.eng.accCnt + 1#2).toNat < s.eng.variant.width
      rw [BitVec.toNat_add]
      exact (Nat.mod_le _ _).trans_lt hlt
    · simp [hacc, hpart]
  · exact h

theorem State.Faithful.execPushDecLast {b : Byte} {s t : State} (h : s.Faithful)
    (hexec : execPushDecLast b s = .next t) : t.Faithful := by
  obtain ⟨en, rfl⟩ | ⟨-, rfl⟩ := execPushDecLast_cases hexec
  · obtain ⟨hrun, -, hdir, hlast⟩ := s.eng.canPushDecLast_iff.mp en
    obtain ⟨units, k, hacc, hlen, hsum⟩ := (State.faithful_iff_of_run_dec hrun hdir (by omega)).mp h
    have hunit : s.env.accepted ++ [b] = units ++ (s.eng.collected b).bytes := by
      rw [hacc, List.append_assoc, s.eng.collected_bytes b hlast]
    have hvariant := collected_variant s.eng b
    have hdec := decodeStream_bytes (s.eng.collected b)
    rw [hvariant] at hdec
    refine (State.faithful_iff_of_run_dec ?_ ?_ ?_).mpr ⟨units ++ (s.eng.collected b).bytes, k + 1, ?_, ?_, ?_⟩
    · exact hrun
    · exact hdir
    · exact s.eng.variant.width_pos
    · simp [hunit]
    · simp [hlen, CodeUnit.bytes_length, hvariant, Nat.succ_mul]
    · simp [hsum, decodeStream_append _ hlen, hdec]
  · exact h

theorem State.Faithful.execEosDec {x : Byte} {s t : State} (h : s.Faithful)
    (hexec : execEosDec x s = .next t) : t.Faithful := by
  obtain ⟨en, hcnt, rfl⟩ | ⟨en, -, rfl⟩ | ⟨-, rfl⟩ := execEosDec_cases hexec
  · obtain ⟨hrun, -, hdir⟩ := s.eng.canEosDec_iff.mp en
    obtain ⟨hsum, hrest⟩ := h.dec_run hrun hdir
    rw [hcnt] at hrest
    exact (State.faithful_iff_of_dec (s := s.setEng s.eng.finish) nofun hdir).mpr fun _ _ =>
      ⟨hsum, nofun, fun _ => hrest.symm, nofun⟩
  · obtain ⟨hrun, -, hdir⟩ := s.eng.canEosDec_iff.mp en
    obtain ⟨hsum, hrest⟩ := h.dec_run hrun hdir
    exact (State.faithful_iff_of_dec (s := s.setEng (s.eng.raiseTruncated s.eng.accCnt)) nofun hdir).mpr fun _ _ =>
      ⟨hsum, nofun, nofun, fun _ => hrest⟩
  · exact h

/-- A POP moves a byte from OBUF to the output, and the invariant speaks of the two together. OBUF is not empty, so
PHASE is not IDLE. -/
theorem State.Faithful.execPop {s t : State} (hsound : s.eng.Sound) (h : s.Faithful)
    (hexec : execPop s = .next t) : t.Faithful := by
  obtain ⟨b, rest, hobuf, rfl⟩ | ⟨-, rfl⟩ := execPop_cases hexec
  · obtain ⟨-, -, hidle, -⟩ := hsound
    obtain ⟨-, henc, hdec⟩ := h
    have hsum := State.emitted_pop hobuf
    unfold State.emitted at hsum
    refine ⟨fun hp => ?_, ?_, ?_⟩
    · exact nomatch hobuf.symm.trans (congrArg Engine.obuf (hidle hp))
    · unfold State.EncodesAccepted
      rw [hsum]
      exact henc
    · unfold State.DecodesAccepted
      rw [hsum]
      exact hdec
  · exact h

theorem State.faithful_openSession (s : State) (v : Variant) (d : Dir) :
    (s.setEng (s.eng.openSession v d)).forgetSession.Faithful := by
  cases d
  case enc =>
    refine (State.faithful_iff_of_paired ?_ ?_ ?_).mpr ⟨fun _ => rfl, rfl⟩
    all_goals simp
  case dec =>
    refine (State.faithful_iff_of_run_dec ?_ ?_ ?_).mpr ⟨[], 0, rfl, (Nat.zero_mul _).symm, ?_⟩
    · rfl
    · rfl
    · exact v.width_pos
    · exact (decodeStream_of_short (t := []) v.width_pos).symm

theorem State.Faithful.exec {i : Instr} {s t : State} (hsound : s.eng.Sound) (h : s.Faithful)
    (hexec : exec i s = .next t) : t.Faithful := by
  cases i
  case pushEncFirst => exact h.execPushEncFirst hexec
  case pushEncSecond => exact h.execPushEncSecond hexec
  case eosEnc x => exact h.execEosEnc (x := x) hexec
  case pushDecPartial => exact h.execPushDecPartial hexec
  case pushDecLast => exact h.execPushDecLast hexec
  case eosDec x => exact h.execEosDec (x := x) hexec
  case pop => exact h.execPop hsound hexec
  case reset => cases hexec; exact ⟨fun _ => ⟨rfl, rfl⟩, absurd rfl, absurd rfl⟩
  case start v d => cases hexec; exact s.faithful_openSession v d
  all_goals cases hexec; exact h

/-- Settles O45: a step leaves the state or runs one operation, and every operation keeps the stream invariant. -/
theorem faithfulStreamKeptByStep : Obligations.FaithfulStreamKeptByStep := by
  intro s t hsound h hstep
  obtain ⟨-, rfl⟩ | ⟨x, rest, i, -, -, hexec⟩ := step_cases hstep
  · exact h
  · exact State.Faithful.exec (s := s.setPending rest) hsound h hexec

end Machine

end Sys2Proof

namespace Sys2Proof.Machine

/-! ### The handshake outputs (R43, R44) -/

theorem Engine.outData_of_outValid {e : Engine} {p : PortIn} (h : e.outValid p = true) :
    e.outData p = e.obuf.head? :=
  if_pos h

/-- Settles O35. -/
theorem handshakeOutputs : Obligations.HandshakeOutputs := by
  intro e p
  refine ⟨?_, ?_, fun h => ?_⟩
  · rw [inReady_iff, e.accepting_iff, List.length_eq_zero_iff, and_assoc]
  · rw [outValid_iff, List.length_pos_iff]
  · obtain ⟨hne, -, -⟩ := (outValid_iff e p).mp h
    obtain ⟨b, rest, hobuf⟩ := List.exists_cons_of_ne_nil hne
    exact ⟨rest, b, hobuf, by rw [Engine.outData_of_outValid h, hobuf, List.head?_cons]⟩

/-- Settles O36: in_ready asks for an empty OBUF and out_valid for a nonempty one. -/
theorem inAndOutNeverTogether : Obligations.InAndOutNeverTogether := by
  intro e p q ⟨hready, hvalid⟩
  obtain ⟨hacc, -, -⟩ := (inReady_iff e p).mp hready
  obtain ⟨-, hempty⟩ := e.accepting_iff.mp hacc
  obtain ⟨hne, -, -⟩ := (outValid_iff e q).mp hvalid
  exact hne hempty

/-! ### The event of a step (R42, R100, R138) -/

/-- Settles O38. -/
theorem noEventChangesNothing : Obligations.NoEventChangesNothing := by
  intro s hp
  simp only [step, hp]

theorem step_eq_exec {s : State} {x : Stimulus} {rest : List Stimulus} {i : Instr} (hp : s.env.pending = x :: rest)
    (hf : fetch s.eng x = .ok i) : step s = exec i (s.setPending rest) := by
  simp only [step, hp, hf]

theorem fetch_rst (e : Engine) {p : PortIn} (h : p.rst = true) :
    fetch e (.ports p) = .ok (.reset (BitVec.ofBool p.start ++ p.cfgDir ++ p.cfgVariant)) := by
  simp [fetch, stimulusWord, eventWord, decode, decodeCtrl_ctrlWord, h]

theorem fetch_start (e : Engine) {p : PortIn} (hrst : p.rst = false) (hstart : p.start = true) :
    fetch e (.ports p) = .ok (.start (Variant.ofBit p.cfgVariant) (Dir.ofBit p.cfgDir)) := by
  simp [fetch, stimulusWord, eventWord, decode, decodeCtrl_ctrlWord, hrst, hstart]

theorem decodeIn_of_eos (c : Selector) {p : PortIn} (h : p.inEos = true) :
    decodeIn c p.inWord = .ok (decodeEos c p.inData) := by
  obtain ⟨heos, hdata⟩ := inWord_fields p
  rw [decodeIn, heos, hdata, if_pos h]

theorem decodeIn_of_data (c : Selector) {p : PortIn} (h : p.inEos = false) :
    decodeIn c p.inWord = decodePush c p.inData := by
  obtain ⟨heos, hdata⟩ := inWord_fields p
  rw [decodeIn, heos, hdata, h, if_neg Bool.false_ne_true]

theorem fetch_pop {e : Engine} {p : PortIn} (hready : p.outReady = true) (hvalid : e.outValid p = true) :
    fetch e (.ports p) = .ok .pop := by
  obtain ⟨hne, hrst, hstart⟩ := (outValid_iff e p).mp hvalid
  have hin : e.inReady p = false := by
    rw [← Bool.not_eq_true]
    exact fun h => inAndOutNeverTogether e p p ⟨h, hvalid⟩
  simp [fetch, stimulusWord, eventWord, decode, hrst, hstart, hin, hready, hvalid]

/-- Settles O39: each clause is one event word, and R100's rows are the branches of its decoder. -/
theorem portsChooseTheEventByPriority : Obligations.PortsChooseTheEventByPriority := by
  rintro s _ p rest hp rfl
  refine ⟨fun hrst => ⟨_, step_eq_exec hp (fetch_rst s.eng hrst)⟩,
    fun hrst hstart => step_eq_exec hp (fetch_start s.eng hrst hstart),
    fun hrst hstart hvalid hrun hempty => ?_, fun hrst hstart hready hne => ?_, fun hrst hstart hin hout => ?_⟩
  · have hready := (inReady_iff s.eng p).mpr ⟨s.eng.accepting_iff.mpr ⟨hrun, hempty⟩, hrst, hstart⟩
    have hstep {i : Instr} (hi : decodeIn s.eng.selector p.inWord = .ok i) : step s = exec i (s.setPending rest) :=
      step_eq_exec hp ((fetch_accepted s.eng p hvalid hready).trans hi)
    refine ⟨fun heos hdir => hstep ((decodeIn_of_eos _ heos).trans ?_),
      fun heos hdir => hstep ((decodeIn_of_eos _ heos).trans ?_),
      fun heos hdir hhold => hstep ((decodeIn_of_data _ heos).trans ?_),
      fun heos hdir hhold => hstep ((decodeIn_of_data _ heos).trans ?_),
      fun heos hdir hcnt => hstep ((decodeIn_of_data _ heos).trans ?_),
      fun heos hdir hcnt => hstep ((decodeIn_of_data _ heos).trans ?_)⟩
    · simp [decodeEos, Engine.selector, hdir]
    · simp [decodeEos, Engine.selector, hdir]
    · simp [decodePush, Engine.selector, hdir, hhold]
    · simp [decodePush, Engine.selector, hdir, hhold]
    · simp [decodePush, Engine.selector, hdir, hcnt]
    · simp [decodePush, Engine.selector, hdir, hcnt]
  · exact step_eq_exec hp (fetch_pop hready ((outValid_iff s.eng p).mpr ⟨hne, hrst, hstart⟩))
  · refine step_eq_exec hp (fetch_noEvent s.eng p hrst hstart ?_ ?_)
    · rw [Bool.and_eq_false_iff, ← Bool.not_eq_true (s.eng.inReady p), inReady_iff, s.eng.accepting_iff]
      tauto
    · rw [Bool.and_eq_false_iff, ← Bool.not_eq_true (s.eng.outValid p), outValid_iff]
      tauto

end Sys2Proof.Machine

namespace Sys2Proof

/-! ### The lead bytes of R61 to R63 and their fields -/

theorem pairLead_fields : ∀ (t : BitVec 6) (p q : BitVec 1),
    (t ++ p ++ q).extractLsb' 2 6 = t ∧ bitAt (t ++ p ++ q) 1 = p ∧ bitAt (t ++ p ++ q) 0 = q := by decide

theorem singleLead_fields : ∀ (t : BitVec 7) (q : BitVec 1),
    (t ++ q).extractLsb' 1 7 = t ∧ bitAt (t ++ q) 0 = q := by decide

theorem pairLead_of_fields : ∀ u : Byte, u.extractLsb' 2 6 ++ bitAt u 1 ++ bitAt u 0 = u := by decide

theorem singleLead_of_fields : ∀ u : Byte, u.extractLsb' 1 7 ++ bitAt u 0 = u := by decide

theorem pairLead_of_upper {u : Byte} {t : BitVec 6} (h : u.extractLsb' 2 6 = t) : t ++ bitAt u 1 ++ bitAt u 0 = u :=
  h ▸ pairLead_of_fields u

theorem singleLead_of_upper {u : Byte} {t : BitVec 7} (h : u.extractLsb' 1 7 = t) : t ++ bitAt u 0 = u :=
  h ▸ singleLead_of_fields u

theorem singleLead_upper : ∀ (t : BitVec 7) (q : BitVec 1), (t ++ q).extractLsb' 2 6 = t.extractLsb' 1 6 := by decide

theorem zext_or_pairLead : ∀ (t : BitVec 6) (p q : BitVec 1),
    (t ++ 0#2) ||| (p.setWidth 8 <<< 1) ||| q.setWidth 8 = t ++ p ++ q := by decide

theorem zext_or_singleLead : ∀ (t : BitVec 7) (q : BitVec 1), (t ++ 0#1) ||| q.setWidth 8 = t ++ q := by decide

theorem pairLead_eq_or (t : BitVec 6) (b0 b1 : Byte) :
    (t ++ 0#2) ||| (bit6 b0 <<< 1) ||| bit6 b1 = t ++ bitAt b0 6 ++ bitAt b1 6 := by
  rw [bit6_eq_zext, bit6_eq_zext, zext_or_pairLead]

theorem singleLead_eq_or (t : BitVec 7) (b0 : Byte) : (t ++ 0#1) ||| bit6 b0 = t ++ bitAt b0 6 := by
  rw [bit6_eq_zext, zext_or_singleLead]

namespace Machine

theorem encStdPair_eq (b0 b1 : Byte) :
    encStdPair b0 b1 =
      .std (0b111000#6 ++ bitAt b0 6 ++ bitAt b1 6) (continuation (low6 b0)) (continuation (low6 b1)) := by
  rw [encStdPair, continuation_eq_or, continuation_eq_or, ← pairLead_eq_or]
  rfl

theorem encStdSingle_eq (b0 : Byte) :
    encStdSingle b0 = .std (0b1110010#7 ++ bitAt b0 6) (continuation (low6 b0)) 0x80#8 := by
  rw [encStdSingle, continuation_eq_or, ← singleLead_eq_or]
  rfl

theorem encExtPair_eq (b0 b1 : Byte) :
    encExtPair b0 b1 =
      .ext 0xF0#8 (0b100100#6 ++ bitAt b0 6 ++ bitAt b1 6) (continuation (low6 b0)) (continuation (low6 b1)) := by
  rw [encExtPair, continuation_eq_or, continuation_eq_or, ← pairLead_eq_or]
  rfl

theorem encExtSingle_eq (b0 : Byte) :
    encExtSingle b0 = .ext 0xF0#8 (0b1001010#7 ++ bitAt b0 6) (continuation (low6 b0)) 0x80#8 := by
  rw [encExtSingle, continuation_eq_or, ← singleLead_eq_or]
  rfl

theorem encode_encStdPair (b0 b1 : Byte) : encode (.encStdPair b0 b1) = .unit (encStdPair b0 b1).bytes := by
  rw [encStdPair_eq]
  rfl

theorem encode_encStdSingle (b0 : Byte) : encode (.encStdSingle b0) = .unit (encStdSingle b0).bytes := by
  rw [encStdSingle_eq]
  rfl

theorem encode_encExtPair (b0 b1 : Byte) : encode (.encExtPair b0 b1) = .unit (encExtPair b0 b1).bytes := by
  rw [encExtPair_eq]
  rfl

theorem encode_encExtSingle (b0 : Byte) : encode (.encExtSingle b0) = .unit (encExtSingle b0).bytes := by
  rw [encExtSingle_eq]
  rfl

/-- Settles O6: the pseudocode's masks and shifts, written as concatenations, are the tables' layouts. -/
theorem encodeRowWordIsItsUnit : Obligations.EncodeRowWordIsItsUnit :=
  fun b0 b1 => ⟨encode_encStdPair b0 b1, encode_encStdSingle b0, encode_encExtPair b0 b1, encode_encExtSingle b0⟩

end Machine

/-! ### The fields of an encoded unit (R61, R62, R64) -/

theorem pairLead_flag : ∀ (t : BitVec 6) (p q : BitVec 1), Byte.flagBit (t ++ p ++ q) = t.getLsbD 0 := by decide

theorem singleLead_flag : ∀ (t : BitVec 7) (q : BitVec 1), Byte.flagBit (t ++ q) = t.getLsbD 1 := by decide

theorem bitAt_one_singleLead : ∀ (t : BitVec 7) (q : BitVec 1), bitAt (t ++ q) 1 = t.extractLsb' 0 1 := by decide

/-- The fields of a pair unit of either variant, given its lead byte. -/
theorem pairUnit_fields {u : CodeUnit} (t : BitVec 6) (b0 b1 : Byte) (hflag : t.getLsbD 0 = false)
    (hlead : u.lead = t ++ bitAt b0 6 ++ bitAt b1 6) (h1 : u.cont1 = continuation (low6 b0))
    (h2 : u.cont2 = continuation (low6 b1)) :
    u.flag = false ∧ u.fieldP = bitAt b0 6 ∧ u.fieldQ = bitAt b1 6 ∧ u.fieldD0 = low6 b0 ∧ u.fieldD1 = low6 b1 := by
  obtain ⟨-, hp, hq⟩ := pairLead_fields t (bitAt b0 6) (bitAt b1 6)
  simp only [CodeUnit.flag, CodeUnit.fieldP, CodeUnit.fieldQ, CodeUnit.fieldD0, CodeUnit.fieldD1, hlead, h1, h2,
    pairLead_flag, hflag, hp, hq, low6_continuation, and_self]

/-- The fields of a single unit of either variant, given its lead byte. -/
theorem singleUnit_fields {u : CodeUnit} (t : BitVec 7) (b0 : Byte) (hflag : t.getLsbD 1 = true)
    (hP : t.extractLsb' 0 1 = 0#1) (hlead : u.lead = t ++ bitAt b0 6) (h1 : u.cont1 = continuation (low6 b0))
    (h2 : u.cont2 = 0x80#8) :
    u.flag = true ∧ u.fieldP = 0#1 ∧ u.fieldQ = bitAt b0 6 ∧ u.fieldD0 = low6 b0 ∧ u.cont2 = 0x80#8 := by
  obtain ⟨-, hq⟩ := singleLead_fields t (bitAt b0 6)
  simp only [CodeUnit.flag, CodeUnit.fieldP, CodeUnit.fieldQ, CodeUnit.fieldD0, hlead, h1, h2, singleLead_flag, hflag,
    bitAt_one_singleLead, hP, hq, low6_continuation, and_self]

namespace Machine

/-- Settles O5: both variants have their fields in the same places of the lead and the continuation bytes. -/
theorem encodedUnitFields : Obligations.EncodedUnitFields := by
  intro v b0 b1
  cases v with
  | std =>
    rw [enc, enc, encStdPair_eq, encStdSingle_eq]
    exact ⟨pairUnit_fields 0b111000#6 b0 b1 rfl rfl rfl rfl, singleUnit_fields 0b1110010#7 b0 rfl rfl rfl rfl rfl⟩
  | ext =>
    rw [enc, enc, encExtPair_eq, encExtSingle_eq]
    exact ⟨pairUnit_fields 0b100100#6 b0 b1 rfl rfl rfl rfl, singleUnit_fields 0b1001010#7 b0 rfl rfl rfl rfl rfl⟩

/-! ### The encoder's image is the four forms (R63) -/

theorem encStdPair_hasForm (b0 b1 : Byte) : (encStdPair b0 b1).hasForm .stdPair = true := by
  rw [encStdPair_eq, hasForm_stdPair_iff]
  exact ⟨(pairLead_fields ..).1, isContinuation_continuation _, isContinuation_continuation _⟩

theorem encStdSingle_hasForm (b0 : Byte) : (encStdSingle b0).hasForm .stdSingle = true := by
  rw [encStdSingle_eq, hasForm_stdSingle_iff]
  exact ⟨(singleLead_fields ..).1, isContinuation_continuation _, rfl⟩

theorem encExtPair_hasForm (b0 b1 : Byte) : (encExtPair b0 b1).hasForm .extPair = true := by
  rw [encExtPair_eq, hasForm_extPair_iff]
  exact ⟨rfl, (pairLead_fields ..).1, isContinuation_continuation _, isContinuation_continuation _⟩

theorem encExtSingle_hasForm (b0 : Byte) : (encExtSingle b0).hasForm .extSingle = true := by
  rw [encExtSingle_eq, hasForm_extSingle_iff]
  exact ⟨rfl, (singleLead_fields ..).1, isContinuation_continuation _, rfl⟩

/-- The operands are the lanes of the unit's fields (R64); so also in the three theorems after this one. -/
theorem encStdPair_of_hasForm {u : CodeUnit} (h : u.hasForm .stdPair = true) :
    encStdPair (lane u.fieldP u.fieldD0) (lane u.fieldQ u.fieldD1) = u := by
  match u with
  | .std u0 u1 u2 =>
    obtain ⟨hlead, h1, h2⟩ := (hasForm_stdPair_iff u0 u1 u2).mp h
    rw [encStdPair_eq, bitAt_six_lane, bitAt_six_lane, low6_lane, low6_lane]
    exact congr (congrArg₂ CodeUnit.std (pairLead_of_upper hlead) (continuation_low6_of_isContinuation u1 h1))
      (continuation_low6_of_isContinuation u2 h2)

theorem encStdSingle_of_hasForm {u : CodeUnit} (h : u.hasForm .stdSingle = true) :
    encStdSingle (lane u.fieldQ u.fieldD0) = u := by
  match u with
  | .std u0 u1 u2 =>
    obtain ⟨hlead, h1, rfl⟩ := (hasForm_stdSingle_iff u0 u1 u2).mp h
    rw [encStdSingle_eq, bitAt_six_lane, low6_lane]
    exact congr (congrArg₂ CodeUnit.std (singleLead_of_upper hlead) (continuation_low6_of_isContinuation u1 h1)) rfl

theorem encExtPair_of_hasForm {u : CodeUnit} (h : u.hasForm .extPair = true) :
    encExtPair (lane u.fieldP u.fieldD0) (lane u.fieldQ u.fieldD1) = u := by
  match u with
  | .ext u0 u1 u2 u3 =>
    obtain ⟨rfl, hlead, h2, h3⟩ := (hasForm_extPair_iff u0 u1 u2 u3).mp h
    rw [encExtPair_eq, bitAt_six_lane, bitAt_six_lane, low6_lane, low6_lane]
    exact congr (congrArg₂ (CodeUnit.ext _) (pairLead_of_upper hlead) (continuation_low6_of_isContinuation u2 h2))
      (continuation_low6_of_isContinuation u3 h3)

theorem encExtSingle_of_hasForm {u : CodeUnit} (h : u.hasForm .extSingle = true) :
    encExtSingle (lane u.fieldQ u.fieldD0) = u := by
  match u with
  | .ext u0 u1 u2 u3 =>
    obtain ⟨rfl, hlead, h2, rfl⟩ := (hasForm_extSingle_iff u0 u1 u2 u3).mp h
    rw [encExtSingle_eq, bitAt_six_lane, low6_lane]
    exact congr (congrArg₂ (CodeUnit.ext _) (singleLead_of_upper hlead) (continuation_low6_of_isContinuation u2 h2)) rfl

/-- Settles O4: a unit of a form is the encoding of the lanes of its own fields. -/
theorem encodedUnitsAreTheFourForms : Obligations.EncodedUnitsAreTheFourForms := by
  intro u
  refine ⟨⟨?_, fun h => ⟨_, _, encStdPair_of_hasForm h⟩⟩, ⟨?_, fun h => ⟨_, encStdSingle_of_hasForm h⟩⟩,
    ⟨?_, fun h => ⟨_, _, encExtPair_of_hasForm h⟩⟩, ⟨?_, fun h => ⟨_, encExtSingle_of_hasForm h⟩⟩⟩
  · rintro ⟨b0, b1, rfl⟩
    exact encStdPair_hasForm b0 b1
  · rintro ⟨b0, rfl⟩
    exact encStdSingle_hasForm b0
  · rintro ⟨b0, b1, rfl⟩
    exact encExtPair_hasForm b0 b1
  · rintro ⟨b0, rfl⟩
    exact encExtSingle_hasForm b0

end Machine

/-! ### Every row is read back from its word (R63, R68, R69, R70, R72) -/

theorem decodeEncStd_pair (p q : BitVec 1) (d0 d1 : BitVec 6) :
    decodeEncStd (0b111000#6 ++ p ++ q) (continuation d0) (continuation d1) =
      .ok (.encStdPair (lane p d0) (lane q d1)) := by
  obtain ⟨hlead, hp, hq⟩ := pairLead_fields 0b111000#6 p q
  simp only [decodeEncStd, hlead, hp, hq, isContinuation_continuation, low6_continuation, and_self, if_true]

theorem decodeEncStd_single (q : BitVec 1) (d : BitVec 6) :
    decodeEncStd (0b1110010#7 ++ q) (continuation d) 0x80#8 = .ok (.encStdSingle (lane q d)) := by
  obtain ⟨hlead, hq⟩ := singleLead_fields 0b1110010#7 q
  have hnotPair : (0b1110010#7 ++ q).extractLsb' 2 6 ≠ 0b111000#6 := by
    rw [singleLead_upper]
    decide
  simp only [decodeEncStd, hnotPair, hlead, hq, isContinuation_continuation, low6_continuation, and_self, false_and,
    if_true, if_false]

theorem decodeEncExt_pair (p q : BitVec 1) (d0 d1 : BitVec 6) :
    decodeEncExt 0xF0#8 (0b100100#6 ++ p ++ q) (continuation d0) (continuation d1) =
      .ok (.encExtPair (lane p d0) (lane q d1)) := by
  obtain ⟨hlead, hp, hq⟩ := pairLead_fields 0b100100#6 p q
  simp only [decodeEncExt, hlead, hp, hq, isContinuation_continuation, low6_continuation, and_self, if_true]

theorem decodeEncExt_single (q : BitVec 1) (d : BitVec 6) :
    decodeEncExt 0xF0#8 (0b1001010#7 ++ q) (continuation d) 0x80#8 = .ok (.encExtSingle (lane q d)) := by
  obtain ⟨hlead, hq⟩ := singleLead_fields 0b1001010#7 q
  have hnotPair : (0b1001010#7 ++ q).extractLsb' 2 6 ≠ 0b100100#6 := by
    rw [singleLead_upper]
    decide
  simp only [decodeEncExt, hnotPair, hlead, hq, isContinuation_continuation, low6_continuation, and_self, and_false,
    false_and, if_true, if_false]

theorem decodeIn_dataWord (c : Selector) (b : Byte) : decodeIn c (0b0#1 ++ b) = decodePush c b := by
  obtain ⟨heos, hdata⟩ := Machine.dataWord_fields b
  rw [decodeIn, heos, hdata, if_neg Bool.false_ne_true]

theorem decodeIn_eosWord (c : Selector) (x : Byte) : decodeIn c (0b1#1 ++ x) = .ok (decodeEos c x) := by
  obtain ⟨heos, hdata⟩ := Machine.eosWord_fields x
  rw [decodeIn, heos, hdata, if_pos rfl]

theorem decodeCtrl_resetWord : ∀ x : BitVec 3, decodeCtrl (0b1#1 ++ x) = .reset x := by decide

theorem decodeCtrl_startWord (v : Variant) (d : Dir) : decodeCtrl (0b01#2 ++ d.toBit ++ v.toBit) = .start v d := by
  cases v <;> cases d <;> rfl

theorem decodeCtrl_nopWord : ∀ x : BitVec 2, decodeCtrl (0b00#2 ++ x) = .nop x := by decide

/-- Settles O1: each row's selector picks one branch of its word's decoder, which reads every operand back. -/
theorem decodeOfEncodeIsIdentity : Obligations.DecodeOfEncodeIsIdentity := by
  rintro ⟨v, d, held, cnt⟩ i hwf hsel
  cases i <;>
    simp only [Instr.wellFormed, Selector.admits, Bool.and_eq_true, beq_iff_eq, Bool.not_eq_true', decide_eq_true_eq]
      at hwf hsel
  case encStdPair b0 b1 =>
    obtain ⟨rfl, rfl⟩ := hsel
    obtain ⟨h0, h1⟩ := hwf
    refine (decodeEncStd_pair _ _ _ _).trans ?_
    rw [lane_of_sevenBit b0 h0, lane_of_sevenBit b1 h1]
  case encStdSingle b0 =>
    obtain ⟨rfl, rfl⟩ := hsel
    refine (decodeEncStd_single _ _).trans ?_
    rw [lane_of_sevenBit b0 hwf]
  case encExtPair b0 b1 =>
    obtain ⟨rfl, rfl⟩ := hsel
    obtain ⟨h0, h1⟩ := hwf
    refine (decodeEncExt_pair _ _ _ _).trans ?_
    rw [lane_of_sevenBit b0 h0, lane_of_sevenBit b1 h1]
  case encExtSingle b0 =>
    obtain ⟨rfl, rfl⟩ := hsel
    refine (decodeEncExt_single _ _).trans ?_
    rw [lane_of_sevenBit b0 hwf]
  case decStdPair | decStdSingle | decExtPair | decExtSingle =>
    obtain ⟨rfl, rfl⟩ := hsel
    simp [encode, decode, decodeUnit, decodeDecStd, decodeDecExt, hwf]
  case pushEncFirst b | pushEncSecond b | pushDecPartial b | pushDecLast b =>
    obtain ⟨rfl, hrow⟩ := hsel
    refine (decodeIn_dataWord _ b).trans ?_
    simp [decodePush, hrow]
  case eosEnc x | eosDec x =>
    subst hsel
    exact decodeIn_eosWord _ x
  case reset x => exact congrArg Except.ok (decodeCtrl_resetWord x)
  case start v' d' => exact congrArg Except.ok (decodeCtrl_startWord v' d')
  case nop x => exact congrArg Except.ok (decodeCtrl_nopWord x)
  case pop | statusRead => rfl

/-! ### Every word that is read is that of its row -/

/-- What decoding promises of the operation it finds: a well-formed row, selected, whose word is the one read. -/
def Instr.IsRowOf (i : Instr) (c : Selector) (w : HostWord) : Prop :=
  i.wellFormed = true ∧ c.admits i = true ∧ encode i = w

section
variable {c : Selector} {i : Instr}

theorem decodeEncStd_isRowOf {u0 u1 u2 : Byte} (hv : c.variant = .std) (hd : c.dir = .enc)
    (h : decodeEncStd u0 u1 u2 = .ok i) : i.IsRowOf c (.unit [u0, u1, u2]) := by
  unfold decodeEncStd at h
  split at h
  case isTrue hpair =>
    cases h
    have hunit := Machine.encStdPair_of_hasForm ((hasForm_stdPair_iff u0 u1 u2).mpr hpair)
    refine ⟨by simp [Instr.wellFormed, lane_sevenBit], by simp [Selector.admits, hv, hd], ?_⟩
    exact (Machine.encode_encStdPair _ _).trans (congrArg (HostWord.unit ·.bytes) hunit)
  case isFalse =>
    split at h
    case isTrue hsingle =>
      cases h
      have hunit := Machine.encStdSingle_of_hasForm ((hasForm_stdSingle_iff u0 u1 u2).mpr hsingle)
      refine ⟨lane_sevenBit _ _, by simp [Selector.admits, hv, hd], ?_⟩
      exact (Machine.encode_encStdSingle _).trans (congrArg (HostWord.unit ·.bytes) hunit)
    case isFalse => cases h

theorem decodeEncExt_isRowOf {u0 u1 u2 u3 : Byte} (hv : c.variant = .ext) (hd : c.dir = .enc)
    (h : decodeEncExt u0 u1 u2 u3 = .ok i) : i.IsRowOf c (.unit [u0, u1, u2, u3]) := by
  unfold decodeEncExt at h
  split at h
  case isTrue hpair =>
    cases h
    have hunit := Machine.encExtPair_of_hasForm ((hasForm_extPair_iff u0 u1 u2 u3).mpr hpair)
    refine ⟨by simp [Instr.wellFormed, lane_sevenBit], by simp [Selector.admits, hv, hd], ?_⟩
    exact (Machine.encode_encExtPair _ _).trans (congrArg (HostWord.unit ·.bytes) hunit)
  case isFalse =>
    split at h
    case isTrue hsingle =>
      cases h
      have hunit := Machine.encExtSingle_of_hasForm ((hasForm_extSingle_iff u0 u1 u2 u3).mpr hsingle)
      refine ⟨lane_sevenBit _ _, by simp [Selector.admits, hv, hd], ?_⟩
      exact (Machine.encode_encExtSingle _).trans (congrArg (HostWord.unit ·.bytes) hunit)
    case isFalse => cases h

theorem decodeDecStd_isRowOf (u0 u1 u2 : Byte) (hv : c.variant = .std) (hd : c.dir = .dec) :
    (decodeDecStd u0 u1 u2).IsRowOf c (.unit [u0, u1, u2]) := by
  unfold decodeDecStd
  split
  case isTrue hflag => exact ⟨hflag, by simp [Selector.admits, hv, hd], rfl⟩
  case isFalse hflag => exact ⟨by simpa [Instr.wellFormed] using hflag, by simp [Selector.admits, hv, hd], rfl⟩

theorem decodeDecExt_isRowOf (u0 u1 u2 u3 : Byte) (hv : c.variant = .ext) (hd : c.dir = .dec) :
    (decodeDecExt u0 u1 u2 u3).IsRowOf c (.unit [u0, u1, u2, u3]) := by
  unfold decodeDecExt
  split
  case isTrue hflag => exact ⟨hflag, by simp [Selector.admits, hv, hd], rfl⟩
  case isFalse hflag => exact ⟨by simpa [Instr.wellFormed] using hflag, by simp [Selector.admits, hv, hd], rfl⟩

theorem decodePush_isRowOf {b : Byte} (h : decodePush c b = .ok i) : i.IsRowOf c (.inp (0b0#1 ++ b)) := by
  unfold decodePush at h
  split at h
  case h_1 hdir =>
    cases h
    split
    case isTrue hheld => exact ⟨rfl, by simp [Selector.admits, hdir, hheld], rfl⟩
    case isFalse hheld => exact ⟨rfl, by simp [Selector.admits, hdir, hheld], rfl⟩
  case h_2 hdir =>
    split at h
    case isTrue hlt =>
      cases h
      exact ⟨rfl, by simp [Selector.admits, hdir, hlt], rfl⟩
    case isFalse =>
      split at h
      case isTrue heq =>
        cases h
        exact ⟨rfl, by simp [Selector.admits, hdir, heq], rfl⟩
      case isFalse => cases h

theorem decodeEos_isRowOf (x : Byte) : (decodeEos c x).IsRowOf c (.inp (0b1#1 ++ x)) := by
  unfold decodeEos
  split <;> exact ⟨rfl, by simpa [Selector.admits] using ‹_›, rfl⟩

theorem inWord_of_fields : ∀ w : BitVec 9, BitVec.ofBool (w.getLsbD 8) ++ w.extractLsb' 0 8 = w := by decide

theorem decodeIn_isRowOf {w : BitVec 9} (h : decodeIn c w = .ok i) : i.IsRowOf c (.inp w) := by
  rw [← inWord_of_fields w]
  unfold decodeIn at h
  split at h
  case isTrue heos =>
    cases h
    rw [heos]
    exact decodeEos_isRowOf _
  case isFalse heos =>
    rw [Bool.not_eq_true] at heos
    rw [heos]
    exact decodePush_isRowOf h

theorem encode_decodeCtrl : ∀ w : BitVec 4, encode (decodeCtrl w) = .ctrl w := by decide

theorem decodeCtrl_isRowOf (w : BitVec 4) : (decodeCtrl w).IsRowOf c (.ctrl w) := by
  rw [← encode_decodeCtrl w]
  unfold decodeCtrl
  split
  · exact ⟨rfl, rfl, rfl⟩
  · split <;> exact ⟨rfl, rfl, rfl⟩

theorem decodeUnit_isRowOf {u : List Byte} (h : decodeUnit c.variant c.dir u = .ok i) : i.IsRowOf c (.unit u) := by
  unfold decodeUnit at h
  split at h
  case h_1 hv hd => exact decodeEncStd_isRowOf hv hd h
  case h_2 hv hd =>
    cases h
    exact decodeDecStd_isRowOf _ _ _ hv hd
  case h_3 hv hd => exact decodeEncExt_isRowOf hv hd h
  case h_4 hv hd =>
    cases h
    exact decodeDecExt_isRowOf _ _ _ _ hv hd
  case h_5 => cases h

end

/-- Settles O2: one lemma per format of R60. -/
theorem decodedWordIsItsEncoding : Obligations.DecodedWordIsItsEncoding := by
  intro c w i h
  cases w with
  | unit u => exact decodeUnit_isRowOf h
  | inp w => exact decodeIn_isRowOf h
  | ctrl w =>
    cases h
    exact decodeCtrl_isRowOf w
  | out =>
    cases h
    exact ⟨rfl, rfl, rfl⟩
  | status =>
    cases h
    exact ⟨rfl, rfl, rfl⟩

/-! ### Words written out, and bits that nothing reads -/

/-- Settles O3: each clause is a literal word, which the decoder evaluates. -/
theorem specWordsDecode : Obligations.SpecWordsDecode := by
  unfold Obligations.SpecWordsDecode
  decide

/-- Settles O32: the meanings of EOS, RESET and NOP do not name their operand. -/
theorem ignoredBitsHaveNoEffect : Obligations.IgnoredBitsHaveNoEffect :=
  fun _ _ _ _ _ _ _ => ⟨rfl, rfl, rfl, rfl⟩

/-! ### Code points of encoded units (R65) -/

theorem toNat_append_eq_add {m n : Nat} (a : BitVec m) (b : BitVec n) :
    (a ++ b).toNat = a.toNat * 2 ^ n + b.toNat := by
  rw [BitVec.toNat_append, ← Nat.shiftLeft_add_eq_or_of_lt b.isLt, Nat.shiftLeft_eq]

theorem toNat_bitAt_six (b : Byte) : (bitAt b 6).toNat = b.toNat / 64 % 2 := by
  simp [bitAt, Nat.shiftRight_eq_div_pow]

theorem toNat_low6 (b : Byte) : (low6 b).toNat = b.toNat % 64 := by
  simp [low6]

/-! The payload that R65's formula reads from each form's lead byte: the low 4 bits of a 3-byte lead, and the low 6
bits of the second byte of a 4-byte unit, whose lead F0 carries none. -/

theorem toNat_payload_stdPairLead : ∀ p q : BitVec 1,
    ((0b111000#6 ++ p ++ q).extractLsb' 0 4).toNat = p.toNat * 2 + q.toNat := by decide

theorem toNat_payload_stdSingleLead : ∀ q : BitVec 1,
    ((0b1110010#7 ++ q).extractLsb' 0 4).toNat = 4 + q.toNat := by decide

theorem toNat_payload_extPairLead : ∀ p q : BitVec 1,
    (low6 (0b100100#6 ++ p ++ q)).toNat = 16 + p.toNat * 2 + q.toNat := by decide

theorem toNat_payload_extSingleLead : ∀ q : BitVec 1, (low6 (0b1001010#7 ++ q)).toNat = 20 + q.toNat := by decide

theorem toNat_payload_F0 : ((0xF0#8).extractLsb' 0 3).toNat = 0 := rfl

theorem toNat_low6_singleMarker : (low6 0x80#8).toNat = 0 := rfl

/-- R65's formula is positional: each continuation byte adds 6 bits. -/
theorem codePoint_std (u0 u1 u2 : Byte) :
    (CodeUnit.std u0 u1 u2).codePoint =
      (u0.extractLsb' 0 4).toNat * 4096 + (low6 u1).toNat * 64 + (low6 u2).toNat := by
  rw [CodeUnit.codePoint, toNat_append_eq_add, toNat_append_eq_add]
  omega

theorem codePoint_ext (u0 u1 u2 u3 : Byte) :
    (CodeUnit.ext u0 u1 u2 u3).codePoint =
      (u0.extractLsb' 0 3).toNat * 262144 + (low6 u1).toNat * 4096 + (low6 u2).toNat * 64 + (low6 u3).toNat := by
  rw [CodeUnit.codePoint, toNat_append_eq_add, toNat_append_eq_add, toNat_append_eq_add]
  omega

namespace Machine

/-- Settles O14: R65's four formulas are the positional formula at the payloads of the four forms. -/
theorem codePointsOfEncodedUnits : Obligations.CodePointsOfEncodedUnits := by
  intro b0 b1
  refine ⟨?_, ?_, ?_, ?_⟩
  · rw [enc, encStdPair_eq, codePoint_std, toNat_payload_stdPairLead, low6_continuation, low6_continuation,
      toNat_bitAt_six, toNat_bitAt_six, toNat_low6, toNat_low6]
    omega
  · rw [enc, encStdSingle_eq, codePoint_std, toNat_payload_stdSingleLead, low6_continuation, toNat_low6_singleMarker,
      toNat_bitAt_six, toNat_low6]
    omega
  · rw [enc, encExtPair_eq, codePoint_ext, toNat_payload_F0, toNat_payload_extPairLead, low6_continuation,
      low6_continuation, toNat_bitAt_six, toNat_bitAt_six, toNat_low6, toNat_low6]
    omega
  · rw [enc, encExtSingle_eq, codePoint_ext, toNat_payload_F0, toNat_payload_extSingleLead, low6_continuation,
      toNat_low6_singleMarker, toNat_bitAt_six, toNat_low6]
    omega

end Machine

/-! ### Which encoded units are well-formed UTF-8 (R66) -/

/-- A 3-byte unit with lead E0, E1, E2 or E3 is overlong where P = Q = 0 and D0 lacks its top bit. -/
theorem isUtf8_stdPair_iff (p q : BitVec 1) (d0 d1 : BitVec 6) :
    (CodeUnit.std (0b111000#6 ++ p ++ q) (continuation d0) (continuation d1)).isUtf8 = false ↔
      p = 0#1 ∧ q = 0#1 ∧ d0.toNat < 32 := by
  rw [CodeUnit.isUtf8, isContinuation_continuation d1]
  revert p q d0
  decide

theorem isUtf8_stdSingle : ∀ (q : BitVec 1) (d : BitVec 6),
    (CodeUnit.std (0b1110010#7 ++ q) (continuation d) 0x80#8).isUtf8 = true := by decide

/-- After F0 a second byte of 0x90 or more is neither overlong nor beyond U+10FFFF. -/
theorem isUtf8_ext {u1 u2 u3 : Byte} (h1 : isContinuation u1 = true) (hlow : 0x90 ≤ u1.toNat)
    (h2 : isContinuation u2 = true) (h3 : isContinuation u3 = true) : (CodeUnit.ext 0xF0#8 u1 u2 u3).isUtf8 = true := by
  simp [CodeUnit.isUtf8, h1, h2, h3, hlow]

theorem extPairLead_second : ∀ p q : BitVec 1,
    isContinuation (0b100100#6 ++ p ++ q) = true ∧ 0x90 ≤ (0b100100#6 ++ p ++ q).toNat := by decide

theorem extSingleLead_second : ∀ q : BitVec 1,
    isContinuation (0b1001010#7 ++ q) = true ∧ 0x90 ≤ (0b1001010#7 ++ q).toNat := by decide

theorem bitAt_six_eq_zero_iff : ∀ b : Byte, bitAt b 6 = 0#1 ↔ b.toNat % 128 < 0x40 := by decide

theorem bitAt_six_low6_small_iff : ∀ b : Byte, bitAt b 6 = 0#1 ∧ (low6 b).toNat < 32 ↔ b.toNat % 128 < 0x20 := by
  decide

namespace Machine

/-- Settles O15: only E0 as lead with D0 below 32 is overlong, and of the four forms only the Standard pair can have
it. -/
theorem overlongStandardPairs : Obligations.OverlongStandardPairs := by
  intro b0 b1
  rw [enc, enc, enc, enc, encStdPair_eq, encStdSingle_eq, encExtPair_eq, encExtSingle_eq]
  obtain ⟨hpair, hpairLow⟩ := extPairLead_second (bitAt b0 6) (bitAt b1 6)
  obtain ⟨hsingle, hsingleLow⟩ := extSingleLead_second (bitAt b0 6)
  refine ⟨?_, isUtf8_stdSingle _ _,
    isUtf8_ext hpair hpairLow (isContinuation_continuation _) (isContinuation_continuation _),
    isUtf8_ext hsingle hsingleLow (isContinuation_continuation _) rfl⟩
  rw [isUtf8_stdPair_iff, ← bitAt_six_low6_small_iff, ← bitAt_six_eq_zero_iff, and_comm (a := bitAt b1 6 = 0#1),
    and_assoc]

/-! ### A staged row is the one that runs (log entry 7) -/

theorem ctrlWord_of_fields : ∀ w : BitVec 4,
    BitVec.ofBool (w.getLsbD 3) ++ BitVec.ofBool (w.getLsbD 2) ++ w.extractLsb' 1 1 ++ w.extractLsb' 0 1 = w := by decide

theorem eventWord_of_noTransfer (e : Engine) {p : PortIn} (hin : p.inValid = false) (hout : p.outReady = false) :
    eventWord e p = .ctrl p.ctrlWord := by
  simp [eventWord, hin, hout]

theorem eventWord_of_accepted {e : Engine} {p : PortIn} (hvalid : p.inValid = true) (hready : e.inReady p = true) :
    eventWord e p = .inp p.inWord := by
  obtain ⟨-, hrst, hstart⟩ := (inReady_iff e p).mp hready
  simp [eventWord, hrst, hstart, hvalid, hready]

theorem eventWord_of_taken {e : Engine} {p : PortIn} (hvalid : p.inValid = false) (hready : p.outReady = true)
    (hout : e.outValid p = true) : eventWord e p = .out := by
  obtain ⟨-, hrst, hstart⟩ := (outValid_iff e p).mp hout
  simp [eventWord, hrst, hstart, hvalid, hready, hout]

theorem stimulusWord_ofWord_inp {e : Engine} (h : e.accepting = true) (w : BitVec 9) :
    stimulusWord e (.ofWord (.inp w)) = .inp w :=
  (eventWord_of_accepted rfl ((inReady_iff e _).mpr ⟨h, rfl, rfl⟩)).trans (congrArg HostWord.inp (inWord_of_fields w))

theorem stimulusWord_ofWord_ctrl (e : Engine) (w : BitVec 4) : stimulusWord e (.ofWord (.ctrl w)) = .ctrl w :=
  (eventWord_of_noTransfer e rfl rfl).trans (congrArg HostWord.ctrl (ctrlWord_of_fields w))

theorem stimulusWord_ofWord_out {e : Engine} (h : e.obuf ≠ []) : stimulusWord e (.ofWord .out) = .out :=
  eventWord_of_taken rfl rfl ((outValid_iff e _).mpr ⟨h, rfl, rfl⟩)

theorem Engine.enable_pop_obuf (e : Engine) : (e.enable .pop).obuf ≠ [] := by
  by_cases h : e.obuf = [] <;> simp [Engine.enable, h]

theorem Engine.stimulusWord_enable (e : Engine) (i : Instr) :
    stimulusWord (e.enable i) (.ofWord (encode i)) = encode i := by
  cases i
  case pushEncFirst | pushEncSecond | eosEnc | pushDecPartial | pushDecLast | eosDec =>
    exact stimulusWord_ofWord_inp rfl _
  case reset | start | nop => exact stimulusWord_ofWord_ctrl _ _
  case pop => exact stimulusWord_ofWord_out e.enable_pop_obuf
  all_goals rfl

theorem Engine.admits_enable (e : Engine) (i : Instr) : (e.enable i).selector.admits i = true := by
  cases i
  case pushDecPartial | pushDecLast =>
    obtain ⟨v, d, phase, holdV, hold, acc, accCnt, obuf, errK⟩ := e
    cases v <;> rfl
  all_goals rfl

/-- Settles O41: the staged stimulus shows the row's own word, and where the row is selected O1 reads that word back. -/
theorem stagedRowRunsNext : Obligations.StagedRowRunsNext := by
  intro s i hwf
  have hsel := s.eng.admits_enable i
  have hfetch : fetch (s.eng.enable i) (.ofWord (encode i)) = .ok i := by
    rw [fetch, s.eng.stimulusWord_enable]
    exact decodeOfEncodeIsIdentity _ i hwf hsel
  exact ⟨step_eq_exec (s := s.stage i) rfl hfetch, hsel⟩

end Machine
end Sys2Proof

namespace Sys2Proof

/-! ### Bit 7 of an input byte (R86) -/

theorem and_0x7F_of_le : ∀ b : Byte, b.toNat ≤ 127 → b &&& 0x7F#8 = b := by decide

theorem bit6_and_0x7F : ∀ b : Byte, bit6 (b &&& 0x7F#8) = bit6 b := by decide

theorem low6Byte_and_0x7F : ∀ b : Byte, low6Byte (b &&& 0x7F#8) = low6Byte b := by decide

theorem map_and_0x7F_of_le {xs : List Byte} (h : ∀ b ∈ xs, b.toNat ≤ 127) : xs.map (fun b => b &&& 0x7F#8) = xs :=
  (List.map_congr_left fun b hb => and_0x7F_of_le b (h b hb)).trans (List.map_id xs)

theorem lane_getLsbD_seven (h : BitVec 1) (d : BitVec 6) : (lane h d).getLsbD 7 = false := by
  simpa [Byte.sevenBit] using lane_sevenBit h d

namespace Machine

theorem heldBits_and_0x7F : ∀ b : Byte, heldBits (b &&& 0x7F#8) = heldBits b := by decide

/-- The encoder reads a first byte through `bit6` and `low6Byte` only. -/
theorem enc_and_0x7F_first (v : Variant) (b0 : Byte) (o : Option Byte) : enc v (b0 &&& 0x7F#8) o = enc v b0 o := by
  cases v <;> cases o <;>
    simp only [enc, encStdPair, encStdSingle, encExtPair, encExtSingle, bit6_and_0x7F, low6Byte_and_0x7F]

theorem enc_and_0x7F_second (v : Variant) (b0 b1 : Byte) : enc v b0 (some (b1 &&& 0x7F#8)) = enc v b0 (some b1) := by
  cases v <;> simp only [enc, encStdPair, encExtPair, bit6_and_0x7F, low6Byte_and_0x7F]

/-! ### What the decoder reads (R87, R92) -/

/-- The dispatch and the four decode rows of R88 to R91, in the fields of either variant. -/
theorem dec_eq_fields (u : CodeUnit) :
    dec u = if u.flag then [lane u.fieldQ u.fieldD0]
      else [lane u.fieldP u.fieldD0, lane u.fieldQ u.fieldD1] := by
  cases u <;> rfl

theorem dec_of_flag {u : CodeUnit} (h : u.flag = true) : dec u = [lane u.fieldQ u.fieldD0] :=
  (dec_eq_fields u).trans (if_pos h)

theorem dec_of_not_flag {u : CodeUnit} (h : u.flag = false) :
    dec u = [lane u.fieldP u.fieldD0, lane u.fieldQ u.fieldD1] :=
  (dec_eq_fields u).trans (if_neg (by simp [h]))

/-- Settles O12: the two forms, each a function of the fields its hypotheses name. -/
theorem decoderReadsOnlyItsFields : Obligations.DecoderReadsOnlyItsFields := by
  refine ⟨dec_eq_fields, fun u w hflag hQ hD0 hpair => ?_⟩
  cases h : u.flag
  case true => rw [dec_of_flag h, dec_of_flag (hflag ▸ h), hQ, hD0]
  case false =>
    obtain ⟨hP, hD1⟩ := hpair h
    rw [dec_of_not_flag h, dec_of_not_flag (hflag ▸ h), hP, hQ, hD0, hD1]

/-! ### Every decoded byte is a lane (R96) -/

theorem dec_getLsbD_seven {u : CodeUnit} {b : Byte} (h : b ∈ dec u) : b.getLsbD 7 = false := by
  cases hflag : u.flag
  case true =>
    obtain rfl : b = _ := by simpa [dec_of_flag hflag] using h
    exact lane_getLsbD_seven _ _
  case false =>
    obtain rfl | rfl : b = _ ∨ b = _ := by simpa [dec_of_not_flag hflag] using h
    · exact lane_getLsbD_seven _ _
    · exact lane_getLsbD_seven _ _

/-- A decoded stream is the decoded groups, one after the other. -/
theorem exists_dec_of_mem_decodeStream {v : Variant} {t : List Byte} {b : Byte} (h : b ∈ decodeStream v t) :
    ∃ u : CodeUnit, b ∈ dec u := by
  by_cases hlen : t.length < v.width
  · simp [decodeStream_of_short hlen] at h
  · obtain ⟨u, rest, hv, ht⟩ := exists_unit_append (Nat.le_of_not_lt hlen)
    rw [ht, ← hv, decodeStream_bytes_append, List.mem_append] at h
    obtain hgroup | hrest := h
    · exact ⟨u, hgroup⟩
    · exact exists_dec_of_mem_decodeStream hrest
termination_by t.length
decreasing_by
  have := u.variant.width_pos
  rw [ht, List.length_append, CodeUnit.bytes_length]
  omega

/-- Settles O13: a byte of a stream is a byte of one of its groups. -/
theorem decodedBytesAreAscii : Obligations.DecodedBytesAreAscii := by
  refine ⟨fun u b => dec_getLsbD_seven, fun v t b h => ?_⟩
  obtain ⟨u, hu⟩ := exists_dec_of_mem_decodeStream h
  exact dec_getLsbD_seven hu

/-! ### The round trip (R93, R94, R114) -/

/-- The encoder puts each byte's 7 bits where the decoder takes them from, and the flag says how many bytes there
are. -/
theorem dec_enc (v : Variant) (b0 : Byte) (o : Option Byte) :
    dec (enc v b0 o) = (b0 :: o.toList).map (fun b => b &&& 0x7F#8) := by
  cases o with
  | none =>
    obtain ⟨-, hflag, -, hQ, hD0, -⟩ := encodedUnitFields v b0 b0
    rw [dec_of_flag hflag, hQ, hD0]
    exact congrArg (fun b => [b]) (lane_of_fields b0)
  | some b1 =>
    obtain ⟨⟨hflag, hP, hQ, hD0, hD1⟩, -⟩ := encodedUnitFields v b0 b1
    rw [dec_of_not_flag hflag, hP, hQ, hD0, hD1]
    exact congrArg₂ (fun a b => [a, b]) (lane_of_fields b0) (lane_of_fields b1)

theorem dec_enc_of_le (v : Variant) {b0 : Byte} {o : Option Byte} (h0 : b0.toNat ≤ 127)
    (ho : ∀ x, o = some x → x.toNat ≤ 127) : dec (enc v b0 o) = b0 :: o.toList := by
  rw [dec_enc, map_and_0x7F_of_le]
  simpa [h0] using ho

/-- Settles O9. -/
theorem codecRoundTrip : Obligations.CodecRoundTrip := by
  intro v b0 b1
  refine ⟨fun h0 h1 => dec_enc_of_le v h0 ?_, fun h0 => dec_enc_of_le v h0 nofun, dec_enc v b0 (some b1),
    dec_enc v b0 none⟩
  simpa using h1

/-- Settles O10: the decoder is a left inverse, and its list has one byte exactly where the second is absent. -/
theorem encodeIsInjective : Obligations.EncodeIsInjective := by
  intro v b0 c0 b1 c1 hb0 hc0 hb1 hc1 h
  have hlist : b0 :: b1.toList = c0 :: c1.toList := by
    rw [← dec_enc_of_le v hb0 hb1, ← dec_enc_of_le v hc0 hc1, h]
  obtain ⟨hfirst, hsecond⟩ := List.cons.inj hlist
  exact ⟨hfirst, by simpa using congrArg List.head? hsecond⟩

theorem decodeStream_enc_append (v : Variant) (b0 : Byte) (o : Option Byte) (rest : List Byte) :
    decodeStream v ((enc v b0 o).bytes ++ rest) =
      (b0 :: o.toList).map (fun b => b &&& 0x7F#8) ++ decodeStream v rest := by
  have h := decodeStream_bytes_append (enc v b0 o) rest
  rwa [enc_variant, dec_enc] at h

theorem decodeStream_encodeStream (v : Variant) (xs : List Byte) :
    decodeStream v (encodeStream v xs) = xs.map (fun b => b &&& 0x7F#8) := by
  have hnil : decodeStream v [] = [] := decodeStream_of_short v.width_pos
  induction xs using encodeStream.induct with
  | case1 => exact hnil
  | case2 a => simpa [encodeStream, hnil] using decodeStream_enc_append v a none []
  | case3 a b r ih => simp [encodeStream, decodeStream_enc_append, ih]

/-- Settles O49, by induction on the pairs of the stream. -/
theorem streamRoundTrip : Obligations.StreamRoundTrip := by
  intro v xs
  have h := decodeStream_encodeStream v xs
  exact ⟨h, fun hle => h.trans (map_and_0x7F_of_le hle)⟩

/-! ### Bit 7 at the port (R86) -/

theorem Engine.next_pushEncFirst_and_0x7F (e : Engine) (b : Byte) :
    e.next (.pushEncFirst (b &&& 0x7F#8)) = e.next (.pushEncFirst b) := by
  simp only [Engine.next, Engine.holdFirst, heldBits_and_0x7F]

theorem Engine.next_pushEncSecond_and_0x7F (e : Engine) (b : Byte) :
    e.next (.pushEncSecond (b &&& 0x7F#8)) = e.next (.pushEncSecond b) := by
  simp only [Engine.next, enc_and_0x7F_second]

/-- Settles O11: the encoder and HOLD keep the other bits only. -/
theorem highBitOfInputIsIgnored : Obligations.HighBitOfInputIsIgnored := by
  refine ⟨fun v b0 b1 => ⟨?_, (enc_and_0x7F_first v b0 none).symm, dec_enc v b0 (some b1), dec_enc v b0 none⟩,
    fun s t t' b => ⟨fun h h' => ?_, fun h h' => ?_⟩⟩
  · rw [enc_and_0x7F_first, enc_and_0x7F_second]
  · rw [exec_eng h, exec_eng h', Engine.next_pushEncFirst_and_0x7F]
  · rw [exec_eng h, exec_eng h', Engine.next_pushEncSecond_and_0x7F]

/-! ### The datapath rows run on their own (R82 to R91; log entry 6) -/

theorem exec_encStdPair (b0 b1 : Byte) (s : State) :
    exec (.encStdPair b0 b1) s = .next (s.recordResult (enc .std b0 (some b1)).bytes) := rfl

theorem exec_encStdSingle (b0 : Byte) (s : State) :
    exec (.encStdSingle b0) s = .next (s.recordResult (enc .std b0 none).bytes) := rfl

theorem exec_encExtPair (b0 b1 : Byte) (s : State) :
    exec (.encExtPair b0 b1) s = .next (s.recordResult (enc .ext b0 (some b1)).bytes) := rfl

theorem exec_encExtSingle (b0 : Byte) (s : State) :
    exec (.encExtSingle b0) s = .next (s.recordResult (enc .ext b0 none).bytes) := rfl

theorem exec_decodeDecStd (u0 u1 u2 : Byte) (s : State) :
    exec (decodeDecStd u0 u1 u2) s = .next (s.recordResult (dec (.std u0 u1 u2))) := by
  by_cases hflag : Byte.flagBit u0 = true <;> simp only [decodeDecStd, dec, hflag] <;> rfl

theorem exec_decodeDecExt (u0 u1 u2 u3 : Byte) (s : State) :
    exec (decodeDecExt u0 u1 u2 u3) s = .next (s.recordResult (dec (.ext u0 u1 u2 u3))) := by
  by_cases hflag : Byte.flagBit u1 = true <;> simp only [decodeDecExt, dec, hflag] <;> rfl

/-- Settles O7: the units written as concatenations. -/
theorem encodeRowsReturnTheirUnits : Obligations.EncodeRowsReturnTheirUnits := by
  intro s b0 b1
  rw [exec_encStdPair, exec_encStdSingle, exec_encExtPair, exec_encExtSingle]
  simp only [enc, encStdPair_eq, encStdSingle_eq, encExtPair_eq, encExtSingle_eq]
  exact ⟨rfl, rfl, rfl, rfl⟩

/-- Settles O8: the rows are the concatenations of R88 to R91 as they stand. -/
theorem decodeRowsReturnTheirBytes : Obligations.DecodeRowsReturnTheirBytes :=
  fun _ _ _ _ _ => ⟨rfl, rfl, rfl, rfl⟩

/-- Settles O42. -/
theorem everyOperationAnswersNext : Obligations.EveryOperationAnswersNext := by
  intro i s
  obtain ⟨t, ht, -⟩ := exec_eq_next i s
  exact ⟨t, ht⟩

/-! ### What an emitting step puts into OBUF (R103, R104, R106) -/

theorem pushEncSecond_obuf {s t : State} {b : Byte} (en : s.eng.canPushEncSecond = true)
    (h : exec (.pushEncSecond b) s = .next t) :
    t.eng.obuf = (enc s.eng.variant s.eng.heldByte (some b)).bytes := by
  obtain ⟨-, hempty, -⟩ := s.eng.canPushEncSecond_iff.mp en
  simp [exec_eng h, Engine.next, en, hempty]

theorem eosEnc_obuf {s t : State} {x : Byte} (en : s.eng.canEosEnc = true) (hhold : s.eng.holdV = true)
    (h : exec (.eosEnc x) s = .next t) :
    t.eng.obuf = (enc s.eng.variant s.eng.heldByte none).bytes := by
  obtain ⟨-, hempty, -⟩ := s.eng.canEosEnc_iff.mp en
  simp [exec_eng h, Engine.next, en, hhold, hempty]

theorem pushDecLast_obuf {s t : State} {b : Byte} (en : s.eng.canPushDecLast = true)
    (h : exec (.pushDecLast b) s = .next t) : t.eng.obuf = dec (s.eng.collected b) := by
  obtain ⟨-, hempty, -⟩ := s.eng.canPushDecLast_iff.mp en
  simp [exec_eng h, Engine.next, en, hempty]

theorem Engine.collected_std {e : Engine} (b : Byte) (hv : e.variant = .std) :
    e.collected b = .std e.acc.a0 e.acc.a1 b := by
  simp only [Engine.collected, hv]

theorem Engine.collected_ext {e : Engine} (b : Byte) (hv : e.variant = .ext) :
    e.collected b = .ext e.acc.a0 e.acc.a1 e.acc.a2 b := by
  simp only [Engine.collected, hv]

/-- Settles O26: OBUF was empty, so it holds what `enc` or `dec` returned, and the row of the variant records the
same. -/
theorem sequencerEmitsTheRowsResult : Obligations.SequencerEmitsTheRowsResult := by
  intro s t b
  refine ⟨fun en h => ?_, fun en hhold h => ?_, fun en h => ?_⟩
  · rw [pushEncSecond_obuf en h]
    exact ⟨fun hv => ⟨_, exec_encStdPair _ b s, by rw [hv]; rfl⟩,
      fun hv => ⟨_, exec_encExtPair _ b s, by rw [hv]; rfl⟩⟩
  · rw [eosEnc_obuf en hhold h]
    exact ⟨fun hv => ⟨_, exec_encStdSingle _ s, by rw [hv]; rfl⟩,
      fun hv => ⟨_, exec_encExtSingle _ s, by rw [hv]; rfl⟩⟩
  · rw [pushDecLast_obuf en h]
    exact ⟨fun hv => ⟨_, exec_decodeDecStd _ _ b s, by rw [Engine.collected_std b hv]; rfl⟩,
      fun hv => ⟨_, exec_decodeDecExt _ _ _ b s, by rw [Engine.collected_ext b hv]; rfl⟩⟩

end Machine

end Sys2Proof

namespace Sys2Proof.Machine

/-! ### Where a row of an IN word runs (R100, R101) -/

theorem Engine.canPushEncFirst_eq_admits (e : Engine) (b : Byte) :
    e.canPushEncFirst = (e.accepting && e.selector.admits (.pushEncFirst b)) := Bool.and_assoc _ _ _

theorem Engine.canPushEncSecond_eq_admits (e : Engine) (b : Byte) :
    e.canPushEncSecond = (e.accepting && e.selector.admits (.pushEncSecond b)) := Bool.and_assoc _ _ _

theorem Engine.canEosEnc_eq_admits (e : Engine) (x : Byte) :
    e.canEosEnc = (e.accepting && e.selector.admits (.eosEnc x)) := rfl

theorem Engine.canPushDecPartial_eq_admits (e : Engine) (b : Byte) :
    e.canPushDecPartial = (e.accepting && e.selector.admits (.pushDecPartial b)) := Bool.and_assoc _ _ _

theorem Engine.canPushDecLast_eq_admits (e : Engine) (b : Byte) :
    e.canPushDecLast = (e.accepting && e.selector.admits (.pushDecLast b)) := Bool.and_assoc _ _ _

theorem Engine.canEosDec_eq_admits (e : Engine) (x : Byte) :
    e.canEosDec = (e.accepting && e.selector.admits (.eosDec x)) := rfl

/-- A row of an IN word is enabled where the engine accepts input and selects the row; elsewhere it changes nothing
(log entries 3 and 4). -/
theorem exec_of_not_enabled {i : Instr} {w : BitVec 9} {s : State} (hi : encode i = .inp w)
    (h : (s.eng.accepting && s.eng.selector.admits i) = false) : exec i s = .next s := by
  rw [← Bool.not_eq_true] at h
  cases i
  case pushEncFirst b => exact if_neg (s.eng.canPushEncFirst_eq_admits b ▸ h)
  case pushEncSecond b => exact if_neg (s.eng.canPushEncSecond_eq_admits b ▸ h)
  case eosEnc x => exact if_neg (s.eng.canEosEnc_eq_admits x ▸ h)
  case pushDecPartial b => exact if_neg (s.eng.canPushDecPartial_eq_admits b ▸ h)
  case pushDecLast b => exact if_neg (s.eng.canPushDecLast_eq_admits b ▸ h)
  case eosDec x => exact if_neg (s.eng.canEosDec_eq_admits x ▸ h)
  all_goals cases hi

/-- Settles O24. -/
theorem unselectedInRowsDoNothing : Obligations.UnselectedInRowsDoNothing := by
  intro s i w hi hsel
  exact exec_of_not_enabled hi (by rw [hsel, Bool.and_false])

theorem exec_of_not_accepting {i : Instr} {w : BitVec 9} {s : State} (hi : encode i = .inp w)
    (h : s.eng.phase ≠ .run ∨ s.eng.obuf ≠ []) : exec i s = .next s := by
  have hacc : s.eng.accepting = false := by
    rw [← Bool.not_eq_true, s.eng.accepting_iff]
    tauto
  exact exec_of_not_enabled hi (by rw [hacc, Bool.false_and])

theorem exec_pop_of_empty {s : State} (h : s.eng.obuf = []) : exec .pop s = .next s := by
  simp only [exec, execPop, h]

theorem exec_pop_of_cons {s : State} {b : Byte} {rest : List Byte} (h : s.eng.obuf = b :: rest) :
    exec .pop s = .next ((s.setEng s.eng.dropHead).recordPopped b) := by
  simp only [exec, execPop, h]

/-- Settles O23. -/
theorem disabledOffersMoveNothing : Obligations.DisabledOffersMoveNothing := by
  intro s b
  exact ⟨fun h => ⟨exec_of_not_accepting rfl h, exec_of_not_accepting rfl h, exec_of_not_accepting rfl h,
    exec_of_not_accepting rfl h, exec_of_not_accepting rfl h, exec_of_not_accepting rfl h⟩, exec_pop_of_empty⟩

/-- Settles O22. -/
theorem popTakesTheOldestByte : Obligations.PopTakesTheOldestByte := by
  intro s b rest h
  rw [exec_pop_of_cons h, Engine.dropHead, h]
  rfl

/-- Settles O54: outside RUN the six rows of an IN word are disabled, and of the rest only POP moves a byte. -/
theorem noInputAfterEndOfStream : Obligations.NoInputAfterEndOfStream := by
  intro i s t hphase h hstart hreset
  have hrun : s.eng.phase ≠ .run := by obtain h | h := hphase <;> simp [h]
  have hout : s.env.output = s.env.output ++ [] := (List.append_nil _).symm
  cases i
  case start v d => exact absurd rfl (hstart v d)
  case reset x => exact absurd rfl (hreset x)
  case pushEncFirst | pushEncSecond | eosEnc | pushDecPartial | pushDecLast | eosDec =>
    rw [exec_of_not_accepting rfl (.inl hrun)] at h
    cases h
    exact ⟨rfl, rfl, [], rfl, hout⟩
  case pop =>
    obtain ⟨b, rest, hobuf, rfl⟩ | ⟨-, rfl⟩ := execPop_cases h
    · exact ⟨rfl, rfl, [b], by simp [hobuf], by simp⟩
    · exact ⟨rfl, rfl, [], rfl, hout⟩
  all_goals
    cases h
    exact ⟨rfl, rfl, [], rfl, hout⟩

/-! ### The record's frame (log entry 2) -/

theorem exec_eosEnc_env {x : Byte} {s t : State} (h : exec (.eosEnc x) s = .next t) : t.env = s.env := by
  obtain ⟨-, -, rfl⟩ | ⟨-, -, rfl⟩ | ⟨-, rfl⟩ := execEosEnc_cases (x := x) h <;> rfl

theorem exec_eosDec_env {x : Byte} {s t : State} (h : exec (.eosDec x) s = .next t) : t.env = s.env := by
  obtain ⟨-, -, rfl⟩ | ⟨-, -, rfl⟩ | ⟨-, rfl⟩ := execEosDec_cases (x := x) h <;> rfl

/-- The two outcomes of a PUSH row, whatever its effect on the engine, as the record has them. -/
theorem env_of_push {en dis : Prop} {e : Engine} {b : Byte} {s t : State}
    (h : (en ∧ t = (s.setEng e).recordAccepted b) ∨ (dis ∧ t = s)) :
    ∃ bytes, t.env = { s.env with accepted := s.env.accepted ++ bytes } := by
  obtain ⟨-, rfl⟩ | ⟨-, rfl⟩ := h
  · exact ⟨[b], rfl⟩
  · exact ⟨[], by rw [List.append_nil]⟩

/-- A row of an IN word writes nothing of the record but the accepted bytes. -/
theorem exec_inRow_env {i : Instr} {w : BitVec 9} {s t : State} (hi : encode i = .inp w) (h : exec i s = .next t) :
    ∃ bytes, t.env = { s.env with accepted := s.env.accepted ++ bytes } := by
  cases i
  case pushEncFirst => exact env_of_push (execPushEncFirst_cases h)
  case pushEncSecond => exact env_of_push (execPushEncSecond_cases h)
  case pushDecPartial => exact env_of_push (execPushDecPartial_cases h)
  case pushDecLast => exact env_of_push (execPushDecLast_cases h)
  case eosEnc => exact ⟨[], by rw [exec_eosEnc_env h, List.append_nil]⟩
  case eosDec => exact ⟨[], by rw [exec_eosDec_env h, List.append_nil]⟩
  all_goals cases hi

/-- Settles O33. -/
theorem operationsKeepTheRecord : Obligations.OperationsKeepTheRecord := by
  intro i s t h
  cases i
  case eosEnc => simp [exec_eosEnc_env h, encode]
  case eosDec => simp [exec_eosDec_env h, encode]
  case pushEncFirst | pushEncSecond | pushDecPartial | pushDecLast =>
    obtain ⟨bytes, henv⟩ := exec_inRow_env rfl h
    simp [henv, encode]
  case pop =>
    obtain ⟨b, rest, hobuf, rfl⟩ | ⟨-, rfl⟩ := execPop_cases h <;> simp [encode]
  all_goals
    cases h
    simp [encode]

/-! ### The six PUSH and EOS rows where they are enabled (R102 to R107) -/

theorem wellFormed_of_inRow {i : Instr} {w : BitVec 9} (hi : encode i = .inp w) : i.wellFormed = true := by
  cases i
  case pushEncFirst | pushEncSecond | eosEnc | pushDecPartial | pushDecLast | eosDec => rfl
  all_goals cases hi

/-- The IN word of a row is read as that row wherever the row is enabled. -/
theorem decode_inWord_of_enabled {e : Engine} {i : Instr} {w : BitVec 9} (hi : encode i = .inp w)
    (h : (e.accepting && e.selector.admits i) = true) : decode e.selector (.inp w) = .ok i := by
  rw [Bool.and_eq_true] at h
  obtain ⟨-, hsel⟩ := h
  rw [← hi]
  exact decodeOfEncodeIsIdentity _ i (wellFormed_of_inRow hi) hsel

theorem exec_eosEnc_of_holding {s : State} (x : Byte) (h : s.eng.canEosEnc = true) (hhold : s.eng.holdV = true) :
    exec (.eosEnc x) s =
      .next (s.setEng (s.eng.emit (enc s.eng.variant s.eng.heldByte none).bytes).releaseHold.finish) :=
  (if_pos h).trans (if_pos hhold)

theorem exec_eosEnc_of_paired {s : State} (x : Byte) (h : s.eng.canEosEnc = true) (hhold : s.eng.holdV = false) :
    exec (.eosEnc x) s = .next (s.setEng s.eng.finish) :=
  (if_pos h).trans (if_neg (by simp [hhold]))

theorem exec_eosDec_of_complete {s : State} (x : Byte) (h : s.eng.canEosDec = true) (hcnt : s.eng.accCnt = 0#2) :
    exec (.eosDec x) s = .next (s.setEng s.eng.finish) :=
  (if_pos h).trans (if_pos hcnt)

theorem exec_eosDec_of_partial {s : State} (x : Byte) (h : s.eng.canEosDec = true) (hcnt : s.eng.accCnt ≠ 0#2) :
    exec (.eosDec x) s = .next (s.setEng (s.eng.raiseTruncated s.eng.accCnt)) :=
  (if_pos h).trans (if_neg hcnt)

theorem Engine.emit_of_empty {e : Engine} (h : e.obuf = []) (xs : List Byte) : e.emit xs = { e with obuf := xs } := by
  rw [Engine.emit, h, List.nil_append]

theorem Engine.status_holdV (e : Engine) (h : e.obuf.length ≤ 4) : e.status.getLsbD 7 = e.holdV := by
  obtain ⟨-, -, -, -, hholdV, -⟩ := statusFieldsShowTheElements e h
  exact hholdV

theorem Engine.status_obufCnt (e : Engine) (h : e.obuf.length ≤ 4) :
    (e.status.extractLsb' 4 3).toNat = e.obuf.length := by
  obtain ⟨-, -, -, hcnt, -⟩ := statusFieldsShowTheElements e h
  exact hcnt

theorem Engine.inReady_of_obuf {e : Engine} (h : e.obuf ≠ []) (p : PortIn) : e.inReady p = false := by
  rw [← Bool.not_eq_true, inReady_iff, e.accepting_iff]
  tauto

/-- Settles O16. -/
theorem pushEncFirstHoldsTheByte : Obligations.PushEncFirstHoldsTheByte := by
  intro s b hrun hempty hdir hhold
  have enabled := s.eng.canPushEncFirst_iff.mpr ⟨hrun, hempty, hdir, hhold⟩
  refine ⟨decode_inWord_of_enabled rfl (s.eng.canPushEncFirst_eq_admits b ▸ enabled), _,
    exec_pushEncFirst_of_enabled b enabled, rfl, ?_⟩
  rw [Engine.status_holdV _ (by simp [hempty])]
  rfl

/-- Settles O17: OBUF was empty, so the unit's N bytes are all it holds, and in_ready is 0 while any is there. -/
theorem pushEncSecondEmitsTheUnit : Obligations.PushEncSecondEmitsTheUnit := by
  intro s b hrun hempty hdir hhold
  have enabled := s.eng.canPushEncSecond_iff.mpr ⟨hrun, hempty, hdir, hhold⟩
  have hexec := exec_pushEncSecond_of_enabled b enabled
  rw [Engine.emit_of_empty hempty] at hexec
  have hlen := enc_bytes_length s.eng.variant s.eng.heldByte (some b)
  refine ⟨decode_inWord_of_enabled rfl (s.eng.canPushEncSecond_eq_admits b ▸ enabled), _, hexec, rfl, hlen, ?_, ?_⟩
  · exact (Engine.status_obufCnt _ (hlen.trans_le s.eng.variant.width_le)).trans hlen
  · exact Engine.inReady_of_obuf (List.ne_nil_of_length_pos (hlen ▸ s.eng.variant.width_pos))

/-- Settles O18. -/
theorem eosEncFlushesTheHeldByte : Obligations.EosEncFlushesTheHeldByte := by
  intro s x hrun hempty hdir
  have enabled := s.eng.canEosEnc_iff.mpr ⟨hrun, hempty, hdir⟩
  refine ⟨decode_inWord_of_enabled rfl (s.eng.canEosEnc_eq_admits x ▸ enabled), fun hhold => ?_, fun hhold => ?_⟩
  · have hexec := exec_eosEnc_of_holding x enabled hhold
    rw [Engine.emit_of_empty hempty] at hexec
    exact ⟨_, hexec, rfl, enc_bytes_length _ _ _⟩
  · exact ⟨_, exec_eosEnc_of_paired x enabled hhold, rfl⟩

theorem Acc.set_of_toNat : ∀ (a : Acc) (i : BitVec 2) (b : Byte), i.toNat < 3 →
    a.set i b = if i.toNat = 0 then { a with a0 := b } else if i.toNat = 1 then { a with a1 := b }
      else { a with a2 := b } := by
  intro a i b hi
  obtain rfl | rfl | rfl := accCnt_cases i hi <;> rfl

/-- ACC_CNT does not wrap where a byte is collected: it stays within the unit (R17). -/
theorem toNat_accCnt_add_one {c : BitVec 2} (h : c.toNat < 3) : (c + 1#2).toNat = c.toNat + 1 := by
  obtain rfl | rfl | rfl := accCnt_cases c h <;> rfl

/-- Settles O19. -/
theorem pushDecPartialCollectsTheByte : Obligations.PushDecPartialCollectsTheByte := by
  intro s b hrun hempty hdir hcnt
  have hshort : s.eng.accCnt.toNat < 3 := by have := s.eng.variant.width_le; omega
  have enabled := s.eng.canPushDecPartial_iff.mpr ⟨hrun, hempty, hdir, Nat.add_lt_of_lt_sub hcnt⟩
  refine ⟨decode_inWord_of_enabled rfl (s.eng.canPushDecPartial_eq_admits b ▸ enabled), _,
    exec_pushDecPartial_of_enabled b enabled, toNat_accCnt_add_one hshort, ?_⟩
  rw [← Acc.set_of_toNat s.eng.acc s.eng.accCnt b hshort]
  rfl

theorem dec_length_one_or_two (u : CodeUnit) : (dec u).length = 1 ∨ (dec u).length = 2 := by
  rw [dec_length]
  cases u.flag
  · exact .inr rfl
  · exact .inl rfl

/-- Settles O20. -/
theorem pushDecLastEmitsTheBytes : Obligations.PushDecLastEmitsTheBytes := by
  intro s b hrun hempty hdir hcnt
  have enabled := s.eng.canPushDecLast_iff.mpr
    ⟨hrun, hempty, hdir, hcnt ▸ Nat.sub_add_cancel s.eng.variant.width_pos⟩
  have hexec := exec_pushDecLast_of_enabled b enabled
  rw [Engine.emit_of_empty hempty] at hexec
  exact ⟨decode_inWord_of_enabled rfl (s.eng.canPushDecLast_eq_admits b ▸ enabled), _, hexec, rfl,
    dec_length_one_or_two _⟩

/-- Settles O21. -/
theorem eosDecEndsOrRaisesTruncated : Obligations.EosDecEndsOrRaisesTruncated := by
  intro s x hrun hempty hdir
  have enabled := s.eng.canEosDec_iff.mpr ⟨hrun, hempty, hdir⟩
  refine ⟨decode_inWord_of_enabled rfl (s.eng.canEosDec_eq_admits x ▸ enabled), fun hcnt => ?_, fun hpos _ => ?_⟩
  · exact ⟨_, exec_eosDec_of_complete x enabled hcnt, rfl⟩
  · have hcnt : s.eng.accCnt ≠ 0#2 := by rintro h; simp [h] at hpos
    exact ⟨_, exec_eosDec_of_partial x enabled hcnt, rfl⟩

/-- Settles O37. -/
theorem stepRunsTheDecodedOperation : Obligations.StepRunsTheDecodedOperation :=
  fun _ _ _ _ hp hdecode => step_eq_exec hp hdecode

/-- Settles O56. -/
theorem emptySessionHasNoOutput : Obligations.EmptySessionHasNoOutput :=
  fun _ _ x => ⟨⟨_, _, rfl, exec_eosEnc_of_paired x rfl rfl, rfl, rfl, rfl⟩,
    ⟨_, _, rfl, exec_eosDec_of_complete x rfl rfl, rfl, rfl, rfl⟩⟩

end Sys2Proof.Machine

namespace Sys2Proof

theorem CodeUnit.eq_of_bytes {u w : CodeUnit} (h : u.bytes = w.bytes) : u = w := by
  cases u <;> cases w <;> cases h <;> rfl

theorem CodeUnit.exists_bytes_eq_concat (u : CodeUnit) : ∃ part b, u.bytes = part ++ [b] :=
  (List.eq_nil_or_concat' u.bytes).resolve_left
    (List.ne_nil_of_length_pos (u.bytes_length ▸ u.variant.width_pos))

namespace Machine

/-! ### Streams, unit by unit (R111, R112, R114) -/

/-- A decode stream is a run of units and then fewer than N bytes. -/
theorem unitwise_induction {v : Variant} {motive : List Byte → Prop}
    (short : ∀ t, t.length < v.width → motive t)
    (unit : ∀ (u : CodeUnit) (rest : List Byte), u.variant = v → motive rest → motive (u.bytes ++ rest))
    (t : List Byte) : motive t := by
  by_cases hlen : t.length < v.width
  · exact short t hlen
  · obtain ⟨u, rest, hv, ht⟩ := exists_unit_append (Nat.le_of_not_lt hlen)
    exact ht ▸ unit u rest hv (unitwise_induction short unit rest)
termination_by t.length
decreasing_by
  have := u.variant.width_pos
  rw [ht, List.length_append, CodeUnit.bytes_length]
  omega

theorem encodeStream_length (v : Variant) (xs : List Byte) :
    (encodeStream v xs).length = (xs.length + 1) / 2 * v.width := by
  induction xs using encodeStream.induct with
  | case1 => exact (Nat.zero_mul _).symm
  | case2 a => simp [encodeStream, enc_bytes_length]
  | case3 a b r ih =>
    have hpairs : (r.length + 2 + 1) / 2 = (r.length + 1) / 2 + 1 := by omega
    simp only [encodeStream, List.length_append, List.length_cons, enc_bytes_length, ih, hpairs]
    ring

theorem flaggedUnits_bytes_append (u : CodeUnit) (rest : List Byte) :
    flaggedUnits u.variant (u.bytes ++ rest) = u.flag.toNat + flaggedUnits u.variant rest := by
  cases u <;> rfl

theorem flaggedUnits_of_short {v : Variant} {t : List Byte} (h : t.length < v.width) : flaggedUnits v t = 0 := by
  match v, t, h with
  | .std, [], _ | .std, [_], _ | .std, [_, _], _ => rfl
  | .ext, [], _ | .ext, [_], _ | .ext, [_, _], _ | .ext, [_, _, _], _ => rfl

theorem dec_length_add_flag (u : CodeUnit) : (dec u).length + u.flag.toNat = 2 := by
  rw [dec_length]
  cases u.flag <;> rfl

/-- Each complete unit decodes to two bytes, less one where it is flagged (R112). -/
theorem decodeStream_length_add_flagged (v : Variant) (t : List Byte) :
    (decodeStream v t).length + flaggedUnits v t = t.length / v.width * 2 := by
  induction t using unitwise_induction (v := v) with
  | short t h => rw [decodeStream_of_short h, flaggedUnits_of_short h, Nat.div_eq_of_lt h]; rfl
  | unit u rest hv ih =>
    subst hv
    have hunit := dec_length_add_flag u
    rw [decodeStream_bytes_append, flaggedUnits_bytes_append, List.length_append, List.length_append, u.bytes_length,
      Nat.add_div_left _ u.variant.width_pos, Nat.succ_mul]
    omega

/-! ### Ended sessions (R113) -/

theorem State.ended_iff (s : State) :
    s.ended = true ↔ (s.eng.phase = .done ∨ s.eng.phase = .err) ∧ s.eng.obuf = [] := by
  simp [State.ended]

/-- Settles O47: an encode session cannot be in ERR, and in DONE no byte is held. -/
theorem endedEncodeSessionOutput : Obligations.EndedEncodeSessionOutput := by
  intro s hsound hfaithful hended hdir
  obtain ⟨hphase, hempty⟩ := s.ended_iff.mp hended
  obtain ⟨-, hgroupers, -, ⟨herr, -⟩, -, -, -⟩ := hsound
  have hdone : s.eng.phase = .done := by
    refine hphase.resolve_right fun h => ?_
    obtain ⟨hdec, -⟩ := herr h
    exact nomatch hdir.symm.trans hdec
  obtain ⟨hhold, -⟩ := hgroupers (by simp [hdone])
  obtain ⟨-, hout⟩ := (State.faithful_iff_of_paired (by simp [hdone]) hdir hhold).mp hfaithful
  rw [State.emitted, hempty, List.append_nil] at hout
  exact ⟨hdone, hout, hout ▸ encodeStream_length _ _⟩

/-- Settles O48: DONE means no byte of a unit was left, and ERR that ERR_K of them, at least one, were. -/
theorem endedDecodeSessionOutput : Obligations.EndedDecodeSessionOutput := by
  intro s hsound hfaithful hended hdir
  obtain ⟨hphase, hempty⟩ := s.ended_iff.mp hended
  obtain ⟨-, -, -, ⟨herr, hclear⟩, -, -, -⟩ := hsound
  have hidle : s.eng.phase ≠ .idle := by obtain h | h := hphase <;> simp [h]
  obtain ⟨hout, -, hdone, hleft⟩ := (State.faithful_iff_of_dec hidle hdir).mp hfaithful hidle hdir
  rw [hempty, List.append_nil] at hout
  refine ⟨hout, hout ▸ decodeStream_length_add_flagged _ _, fun hmod => ?_, fun hmod => ?_⟩
  · have h : s.eng.phase = .done := by
      refine hphase.resolve_right fun h => ?_
      obtain ⟨-, -, hpos, -⟩ := herr h
      have := hleft h
      omega
    exact ⟨h, hclear (by simp [h])⟩
  · have h := hphase.resolve_left fun h => hmod (hdone h)
    exact ⟨h, hleft h⟩

end Machine

end Sys2Proof

namespace Sys2Proof.Machine

/-! ### What each stimulus of a schedule makes the engine run -/

theorem offerStart_eq_ofWord (v : Variant) (d : Dir) : offerStart v d = .ofWord (encode (.start v d)) := by
  cases v <;> cases d <;> rfl

theorem offerByte_eq_ofWord (b : Byte) : offerByte b = .ofWord (.inp (0b0#1 ++ b)) := by
  obtain ⟨heos, hdata⟩ := dataWord_fields b
  rw [Stimulus.ofWord, heos, hdata]
  rfl

theorem offerEos_eq_ofWord : offerEos = .ofWord (.inp (0b1#1 ++ 0#8)) := rfl

theorem step_inWord {s : State} {rest : List Stimulus} {i : Instr} {w : BitVec 9}
    (hp : s.env.pending = .ofWord (.inp w) :: rest) (hi : encode i = .inp w)
    (h : (s.eng.accepting && s.eng.selector.admits i) = true) : step s = exec i (s.setPending rest) := by
  refine step_eq_exec hp ?_
  rw [fetch, stimulusWord_ofWord_inp (Bool.and_eq_true_iff.mp h).1]
  exact decode_inWord_of_enabled hi h

theorem step_offerByte {s : State} {rest : List Stimulus} {i : Instr} {b : Byte}
    (hp : s.env.pending = offerByte b :: rest) (hi : encode i = .inp (0b0#1 ++ b))
    (h : (s.eng.accepting && s.eng.selector.admits i) = true) : step s = exec i (s.setPending rest) :=
  step_inWord (offerByte_eq_ofWord b ▸ hp) hi h

theorem step_offerEos {s : State} {rest : List Stimulus} {i : Instr}
    (hp : s.env.pending = offerEos :: rest) (hi : encode i = .inp (0b1#1 ++ 0#8))
    (h : (s.eng.accepting && s.eng.selector.admits i) = true) : step s = exec i (s.setPending rest) :=
  step_inWord (offerEos_eq_ofWord ▸ hp) hi h

theorem step_takeByte {s : State} {rest : List Stimulus} {b : Byte} {out : List Byte}
    (hp : s.env.pending = takeByte :: rest) (h : s.eng.obuf = b :: out) :
    step s = .next (((s.setPending rest).setEng s.eng.dropHead).recordPopped b) := by
  have hf : fetch s.eng takeByte = .ok .pop :=
    fetch_pop rfl ((outValid_iff _ _).mpr ⟨by simp [h], rfl, rfl⟩)
  exact (step_eq_exec hp hf).trans (exec_pop_of_cons h)

theorem step_offerStart {s : State} {rest : List Stimulus} {v : Variant} {d : Dir}
    (hp : s.env.pending = offerStart v d :: rest) :
    step s = .next ((s.setPending rest).setEng (s.eng.openSession v d)).forgetSession := by
  refine step_eq_exec (i := .start v d) hp ?_
  rw [fetch, offerStart_eq_ofWord]
  exact (congrArg (decode _) (stimulusWord_ofWord_ctrl _ _)).trans (congrArg _ (decodeCtrl_startWord v d))

/-! ### Runs with no idle step (R117) -/

theorem run_append {M : Host.Core} {m n : Nat} {s t u : M.State} (h : M.run m s = .next t)
    (h' : M.run n t = .next u) : M.run (m + n) s = .next u := by
  induction m generalizing s with
  | zero => cases h; rwa [Nat.zero_add]
  | succ m ih =>
    rw [Nat.succ_add]
    unfold Host.Core.run at h ⊢
    cases hstep : M.step s with
    | next s' => simp only [hstep] at h ⊢; exact ih h
    | fault r => simp [hstep] at h
    | refused r => simp [hstep] at h

theorem run_one {M : Host.Core} {s t : M.State} (h : M.step s = .next t) : M.run 1 s = .next t := by
  simp only [Host.Core.run, h]

/-- A stretch of a session in which every step accepts a byte of `inp`, hands one of `out` to the consumer, or is one of
`ends` accepted EOS (R117; the record: log entry 2). -/
structure Transfers (ends : Nat) (inp out : List Byte) (s t : State) : Prop where
  run : Sys2Proof.core.run (ends + inp.length + out.length) s = .next t
  accepted : t.env.accepted = s.env.accepted ++ inp
  output : t.env.output = s.env.output ++ out
  sink : t.env.sink = s.env.sink ++ out
  variant : t.eng.variant = s.eng.variant
  dir : t.eng.dir = s.eng.dir

theorem Transfers.refl (s : State) : Transfers 0 [] [] s s where
  run := rfl
  accepted := (List.append_nil _).symm
  output := (List.append_nil _).symm
  sink := (List.append_nil _).symm
  variant := rfl
  dir := rfl

theorem Transfers.trans {m n : Nat} {xs xs' ys ys' : List Byte} {s t u : State} (h : Transfers m xs ys s t)
    (h' : Transfers n xs' ys' t u) : Transfers (m + n) (xs ++ xs') (ys ++ ys') s u where
  run := by
    have hsteps : m + n + (xs ++ xs').length + (ys ++ ys').length =
        m + xs.length + ys.length + (n + xs'.length + ys'.length) := by
      rw [List.length_append, List.length_append]
      omega
    exact hsteps ▸ run_append h.run h'.run
  accepted := by rw [h'.accepted, h.accepted, List.append_assoc]
  output := by rw [h'.output, h.output, List.append_assoc]
  sink := by rw [h'.sink, h.sink, List.append_assoc]
  variant := h'.variant.trans h.variant
  dir := h'.dir.trans h.dir

/-- One accepted byte, by the row `i` that the engine selects. -/
theorem Transfers.of_push {s : State} {b : Byte} {rest : List Stimulus} {i : Instr} {e : Engine}
    (hp : s.env.pending = offerByte b :: rest) (hi : encode i = .inp (0b0#1 ++ b))
    (enabled : (s.eng.accepting && s.eng.selector.admits i) = true)
    (hexec : exec i (s.setPending rest) = .next (((s.setPending rest).setEng e).recordAccepted b))
    (hvariant : e.variant = s.eng.variant) (hdir : e.dir = s.eng.dir) :
    ∃ t, Transfers 0 [b] [] s t ∧ t.env.pending = rest ∧ t.eng = e :=
  ⟨_, { run := run_one (M := core) ((step_offerByte hp hi enabled).trans hexec)
        accepted := rfl
        output := (List.append_nil _).symm
        sink := (List.append_nil _).symm
        variant := hvariant
        dir := hdir }, rfl, rfl⟩

/-- The accepted EOS, by the row `i` that the engine selects. -/
theorem Transfers.of_eos {s : State} {rest : List Stimulus} {i : Instr} {e : Engine}
    (hp : s.env.pending = offerEos :: rest) (hi : encode i = .inp (0b1#1 ++ 0#8))
    (enabled : (s.eng.accepting && s.eng.selector.admits i) = true)
    (hexec : exec i (s.setPending rest) = .next ((s.setPending rest).setEng e))
    (hvariant : e.variant = s.eng.variant) (hdir : e.dir = s.eng.dir) :
    ∃ t, Transfers 1 [] [] s t ∧ t.env.pending = rest ∧ t.eng = e :=
  ⟨_, { run := run_one (M := core) ((step_offerEos hp hi enabled).trans hexec)
        accepted := (List.append_nil _).symm
        output := (List.append_nil _).symm
        sink := (List.append_nil _).symm
        variant := hvariant
        dir := hdir }, rfl, rfl⟩

theorem Transfers.of_pop {s : State} {b : Byte} {out : List Byte} {rest : List Stimulus}
    (hp : s.env.pending = takeByte :: rest) (hobuf : s.eng.obuf = b :: out) :
    ∃ t, Transfers 0 [] [b] s t ∧ t.env.pending = rest ∧ t.eng = s.eng.dropHead :=
  ⟨_, { run := run_one (M := core) (step_takeByte hp hobuf)
        accepted := (List.append_nil _).symm
        output := rfl
        sink := rfl
        variant := rfl
        dir := rfl }, rfl, rfl⟩

/-- A consumer that is ready as often as there are bytes in OBUF takes them all (R108). -/
theorem transfers_drain {out : List Byte} {s : State} {rest : List Stimulus} (hobuf : s.eng.obuf = out)
    (hp : s.env.pending = List.replicate out.length takeByte ++ rest) :
    ∃ t, Transfers 0 [] out s t ∧ t.env.pending = rest ∧ t.eng = { s.eng with obuf := [] } := by
  induction out generalizing s with
  | nil => exact ⟨s, .refl s, hp, by rw [← hobuf]⟩
  | cons b out ih =>
    obtain ⟨s₁, hpop, hp₁, he₁⟩ := Transfers.of_pop hp hobuf
    obtain ⟨t, hdrain, hrest, heng⟩ := ih (by simp [he₁, hobuf]) hp₁
    exact ⟨t, hpop.trans hdrain, hrest, by rw [heng, he₁]; rfl⟩

/-! ### Encode sessions -/

theorem transfers_pushEncFirst {s : State} {b : Byte} {rest : List Stimulus} (hp : s.env.pending = offerByte b :: rest)
    (enabled : s.eng.canPushEncFirst = true) :
    ∃ t, Transfers 0 [b] [] s t ∧ t.env.pending = rest ∧ t.eng = s.eng.holdFirst b :=
  Transfers.of_push hp rfl (s.eng.canPushEncFirst_eq_admits b ▸ enabled)
    (exec_pushEncFirst_of_enabled (s := s.setPending rest) b enabled) rfl rfl

theorem transfers_pushEncSecond {s : State} {b : Byte} {rest : List Stimulus} (hp : s.env.pending = offerByte b :: rest)
    (enabled : s.eng.canPushEncSecond = true) :
    ∃ t, Transfers 0 [b] [] s t ∧ t.env.pending = rest ∧
      t.eng = (s.eng.emit (enc s.eng.variant s.eng.heldByte (some b)).bytes).releaseHold :=
  Transfers.of_push hp rfl (s.eng.canPushEncSecond_eq_admits b ▸ enabled)
    (exec_pushEncSecond_of_enabled (s := s.setPending rest) b enabled) rfl rfl

theorem transfers_eosEnc_of_holding {s : State} {rest : List Stimulus} (hp : s.env.pending = offerEos :: rest)
    (enabled : s.eng.canEosEnc = true) (hhold : s.eng.holdV = true) :
    ∃ t, Transfers 1 [] [] s t ∧ t.env.pending = rest ∧
      t.eng = (s.eng.emit (enc s.eng.variant s.eng.heldByte none).bytes).releaseHold.finish :=
  Transfers.of_eos hp rfl (s.eng.canEosEnc_eq_admits 0#8 ▸ enabled)
    (exec_eosEnc_of_holding (s := s.setPending rest) 0#8 enabled hhold) rfl rfl

theorem transfers_eosEnc_of_paired {s : State} {rest : List Stimulus} (hp : s.env.pending = offerEos :: rest)
    (enabled : s.eng.canEosEnc = true) (hhold : s.eng.holdV = false) :
    ∃ t, Transfers 1 [] [] s t ∧ t.env.pending = rest ∧ t.eng = s.eng.finish :=
  Transfers.of_eos hp rfl (s.eng.canEosEnc_eq_admits 0#8 ▸ enabled)
    (exec_eosEnc_of_paired (s := s.setPending rest) 0#8 enabled hhold) rfl rfl

/-- A pair, and the taking of its unit, leads from one place between pairs to the next. -/
theorem transfers_pair {s : State} {a b : Byte} {rest : List Stimulus} (enabled : s.eng.canPushEncFirst = true)
    (hp : s.env.pending = offerByte a :: offerByte b :: (List.replicate s.eng.variant.width takeByte ++ rest)) :
    ∃ t, Transfers 0 [a, b] (enc s.eng.variant a (some b)).bytes s t ∧ t.env.pending = rest ∧
      t.eng.canPushEncFirst = true := by
  obtain ⟨hrun, hempty, hdir, -⟩ := s.eng.canPushEncFirst_iff.mp enabled
  obtain ⟨s₁, hfirst, hp₁, he₁⟩ := transfers_pushEncFirst hp enabled
  obtain ⟨s₂, hsecond, hp₂, he₂⟩ :=
    transfers_pushEncSecond hp₁ (Engine.canPushEncSecond_iff _ |>.mpr (by simp [he₁, hrun, hempty, hdir]))
  have hobuf : s₂.eng.obuf = (enc s.eng.variant a (some b)).bytes := by
    simp [he₂, he₁, hempty, enc_of_heldBits (e := s.eng.holdFirst a) s.eng.variant rfl]
  obtain ⟨t, hdrain, hrest, heng⟩ := transfers_drain hobuf (by rw [hp₂, enc_bytes_length])
  refine ⟨t, (hfirst.trans hsecond).trans hdrain, hrest, t.eng.canPushEncFirst_iff.mpr ?_⟩
  simp [heng, he₂, he₁, hrun, hdir]

/-- The last byte of an odd stream, EOS, and the taking of the flagged unit. -/
theorem transfers_single {s : State} {a : Byte} (enabled : s.eng.canPushEncFirst = true)
    (hp : s.env.pending = offerByte a :: offerEos :: List.replicate s.eng.variant.width takeByte) :
    ∃ t, Transfers 1 [a] (enc s.eng.variant a none).bytes s t ∧ t.env.pending = [] ∧ t.eng.phase = .done ∧
      t.eng.obuf = [] := by
  obtain ⟨hrun, hempty, hdir, -⟩ := s.eng.canPushEncFirst_iff.mp enabled
  obtain ⟨s₁, hfirst, hp₁, he₁⟩ := transfers_pushEncFirst hp enabled
  obtain ⟨s₂, heos, hp₂, he₂⟩ :=
    transfers_eosEnc_of_holding hp₁ (Engine.canEosEnc_iff _ |>.mpr (by simp [he₁, hrun, hempty, hdir])) (by simp [he₁])
  have hobuf : s₂.eng.obuf = (enc s.eng.variant a none).bytes := by
    simp [he₂, he₁, hempty, enc_of_heldBits (e := s.eng.holdFirst a) s.eng.variant rfl]
  obtain ⟨t, hdrain, hrest, heng⟩ := transfers_drain hobuf (rest := []) (by rw [hp₂, enc_bytes_length, List.append_nil])
  exact ⟨t, (hfirst.trans heos).trans hdrain, hrest, by simp [heng, he₂], by simp [heng]⟩

theorem transfers_encodeSchedule {xs : List Byte} {s : State} (enabled : s.eng.canPushEncFirst = true)
    (hp : s.env.pending = encodeSchedule s.eng.variant xs) :
    ∃ t, Transfers 1 xs (encodeStream s.eng.variant xs) s t ∧ t.env.pending = [] ∧ t.eng.phase = .done ∧
      t.eng.obuf = [] := by
  induction xs using encodeStream.induct generalizing s with
  | case1 =>
    obtain ⟨hrun, hempty, hdir, hhold⟩ := s.eng.canPushEncFirst_iff.mp enabled
    obtain ⟨t, heos, hrest, heng⟩ := transfers_eosEnc_of_paired hp (s.eng.canEosEnc_iff.mpr ⟨hrun, hempty, hdir⟩) hhold
    exact ⟨t, heos, hrest, by simp [heng], by simp [heng, hempty]⟩
  | case2 a => exact transfers_single enabled hp
  | case3 a b r ih =>
    obtain ⟨s₁, hpair, hp₁, enabled₁⟩ := transfers_pair enabled hp
    obtain ⟨t, htail, hend⟩ := ih enabled₁ (hpair.variant ▸ hp₁)
    exact ⟨t, hpair.variant ▸ hpair.trans htail, hend⟩

/-! ### Decode sessions -/

/-- A running decode session with the bytes `part` of an incomplete unit collected (R17). -/
structure Engine.Collecting (e : Engine) (part : List Byte) : Prop where
  run : e.phase = .run
  empty : e.obuf = []
  dir : e.dir = .dec
  noError : e.errK = 0#2
  partialUnit : e.partialUnit = part

theorem Engine.Collecting.accCnt {e : Engine} {part : List Byte} (h : e.Collecting part) :
    e.accCnt.toNat = part.length := by
  rw [← e.partialUnit_length, h.partialUnit]

theorem Engine.Collecting.collect {e : Engine} {part : List Byte} (h : e.Collecting part) (b : Byte)
    (hlen : part.length < 3) : (e.collect b).Collecting (part ++ [b]) where
  run := h.run
  empty := h.empty
  dir := h.dir
  noError := h.noError
  partialUnit := by rw [Engine.collect_partialUnit b (h.accCnt.trans_lt hlen), h.partialUnit]

theorem transfers_pushDecPartial {s : State} {b : Byte} {rest : List Stimulus} (hp : s.env.pending = offerByte b :: rest)
    (enabled : s.eng.canPushDecPartial = true) :
    ∃ t, Transfers 0 [b] [] s t ∧ t.env.pending = rest ∧ t.eng = s.eng.collect b :=
  Transfers.of_push hp rfl (s.eng.canPushDecPartial_eq_admits b ▸ enabled)
    (exec_pushDecPartial_of_enabled (s := s.setPending rest) b enabled) rfl rfl

theorem transfers_pushDecLast {s : State} {b : Byte} {rest : List Stimulus} (hp : s.env.pending = offerByte b :: rest)
    (enabled : s.eng.canPushDecLast = true) :
    ∃ t, Transfers 0 [b] [] s t ∧ t.env.pending = rest ∧
      t.eng = (s.eng.emit (dec (s.eng.collected b))).releaseAcc :=
  Transfers.of_push hp rfl (s.eng.canPushDecLast_eq_admits b ▸ enabled)
    (exec_pushDecLast_of_enabled (s := s.setPending rest) b enabled) rfl rfl

theorem transfers_eosDec_of_complete {s : State} {rest : List Stimulus} (hp : s.env.pending = offerEos :: rest)
    (enabled : s.eng.canEosDec = true) (hcnt : s.eng.accCnt = 0#2) :
    ∃ t, Transfers 1 [] [] s t ∧ t.env.pending = rest ∧ t.eng = s.eng.finish :=
  Transfers.of_eos hp rfl (s.eng.canEosDec_eq_admits 0#8 ▸ enabled)
    (exec_eosDec_of_complete (s := s.setPending rest) 0#8 enabled hcnt) rfl rfl

theorem transfers_eosDec_of_partial {s : State} {rest : List Stimulus} (hp : s.env.pending = offerEos :: rest)
    (enabled : s.eng.canEosDec = true) (hcnt : s.eng.accCnt ≠ 0#2) :
    ∃ t, Transfers 1 [] [] s t ∧ t.env.pending = rest ∧ t.eng = s.eng.raiseTruncated s.eng.accCnt :=
  Transfers.of_eos hp rfl (s.eng.canEosDec_eq_admits 0#8 ▸ enabled)
    (exec_eosDec_of_partial (s := s.setPending rest) 0#8 enabled hcnt) rfl rfl

theorem transfers_partialUnit {part bytes : List Byte} {s : State} {rest : List Stimulus} (h : s.eng.Collecting part)
    (hshort : (part ++ bytes).length < s.eng.variant.width) (hp : s.env.pending = bytes.map offerByte ++ rest) :
    ∃ t, Transfers 0 bytes [] s t ∧ t.env.pending = rest ∧ t.eng.Collecting (part ++ bytes) := by
  induction bytes generalizing s part with
  | nil => exact ⟨s, .refl s, hp, by rwa [List.append_nil]⟩
  | cons b bytes ih =>
    rw [List.append_cons] at hshort ⊢
    have hroom : part.length + 1 < s.eng.variant.width := by
      simp only [List.length_append, List.length_singleton] at hshort
      omega
    have hlen : part.length < 3 := by have := s.eng.variant.width_le; omega
    have enabled := s.eng.canPushDecPartial_iff.mpr ⟨h.run, h.empty, h.dir, h.accCnt ▸ hroom⟩
    obtain ⟨s₁, hpush, hp₁, he₁⟩ := transfers_pushDecPartial hp enabled
    obtain ⟨t, hpartial, hrest, hcollecting⟩ := ih (he₁ ▸ h.collect b hlen) (hpush.variant ▸ hshort) hp₁
    exact ⟨t, hpush.trans hpartial, hrest, hcollecting⟩

/-- The last byte of a unit, and the taking of what the unit decodes to. -/
theorem transfers_lastByte {u : CodeUnit} {part : List Byte} {b : Byte} {s : State} {rest : List Stimulus}
    (h : s.eng.Collecting part) (hvariant : u.variant = s.eng.variant) (hu : u.bytes = part ++ [b])
    (hp : s.env.pending = offerByte b :: (List.replicate (dec u).length takeByte ++ rest)) :
    ∃ t, Transfers 0 [b] (dec u) s t ∧ t.env.pending = rest ∧ t.eng.Collecting [] := by
  have hlen : s.eng.accCnt.toNat + 1 = s.eng.variant.width := by
    rw [h.accCnt, ← hvariant, ← u.bytes_length, hu, List.length_append, List.length_singleton]
  have enabled := s.eng.canPushDecLast_iff.mpr ⟨h.run, h.empty, h.dir, hlen⟩
  obtain ⟨s₁, hpush, hp₁, he₁⟩ := transfers_pushDecLast hp enabled
  have hcollected : s.eng.collected b = u := by
    refine CodeUnit.eq_of_bytes ?_
    rw [Engine.collected_bytes b hlen, h.partialUnit, hu]
  have hobuf : s₁.eng.obuf = dec u := by simp [he₁, h.empty, hcollected]
  obtain ⟨t, hdrain, hrest, heng⟩ := transfers_drain hobuf hp₁
  rw [he₁] at heng
  exact ⟨t, hpush.trans hdrain, hrest, heng ▸ ⟨h.run, rfl, h.dir, h.noError, rfl⟩⟩

theorem decodeSchedule_bytes_append (u : CodeUnit) (r : List Byte) :
    decodeSchedule u.variant (u.bytes ++ r) =
      u.bytes.map offerByte ++ (List.replicate (dec u).length takeByte ++ decodeSchedule u.variant r) := by
  cases u <;> rfl

theorem decodeSchedule_of_short {v : Variant} {t : List Byte} (h : t.length < v.width) :
    decodeSchedule v t = t.map offerByte ++ [offerEos] := by
  match v, t, h with
  | .std, [], _ | .std, [_], _ | .std, [_, _], _ => rfl
  | .ext, [], _ | .ext, [_], _ | .ext, [_, _], _ | .ext, [_, _, _], _ => rfl

/-- A unit, and the taking of its one or two bytes, leads from one place between units to the next. -/
theorem transfers_unit {u : CodeUnit} {s : State} {rest : List Stimulus} (h : s.eng.Collecting [])
    (hvariant : u.variant = s.eng.variant)
    (hp : s.env.pending = u.bytes.map offerByte ++ (List.replicate (dec u).length takeByte ++ rest)) :
    ∃ t, Transfers 0 u.bytes (dec u) s t ∧ t.env.pending = rest ∧ t.eng.Collecting [] := by
  obtain ⟨part, b, hu⟩ := u.exists_bytes_eq_concat
  have hlen : part.length + 1 = s.eng.variant.width := by
    rw [← hvariant, ← u.bytes_length, hu, List.length_append, List.length_singleton]
  rw [hu, List.map_append, List.append_assoc] at hp
  obtain ⟨s₁, hpartial, hp₁, h₁⟩ := transfers_partialUnit h (by rw [List.nil_append]; omega) hp
  obtain ⟨t, hlast, hrest, hcollecting⟩ := transfers_lastByte h₁ (hvariant.trans hpartial.variant.symm) hu hp₁
  exact ⟨t, hu ▸ hpartial.trans hlast, hrest, hcollecting⟩

/-- EOS ends the session in DONE between units, and in ERR inside one (R107, R131). -/
theorem transfers_eosDec {part : List Byte} {s : State} (h : s.eng.Collecting part) (hp : s.env.pending = [offerEos]) :
    ∃ t, Transfers 1 [] [] s t ∧ t.env.pending = [] ∧ t.eng.obuf = [] ∧
      (part.length = 0 → t.eng.phase = .done ∧ t.eng.errK = 0#2) ∧
      (part.length ≠ 0 → t.eng.phase = .err ∧ t.eng.errK.toNat = part.length) := by
  have enabled := s.eng.canEosDec_iff.mpr ⟨h.run, h.empty, h.dir⟩
  have hlen := h.accCnt
  by_cases hcnt : s.eng.accCnt = 0#2
  · obtain ⟨t, heos, hrest, heng⟩ := transfers_eosDec_of_complete hp enabled hcnt
    have hzero : part.length = 0 := by rw [← hlen, hcnt]; rfl
    exact ⟨t, heos, hrest, heng ▸ h.empty, fun _ => heng ▸ ⟨rfl, h.noError⟩, fun hne => absurd hzero hne⟩
  · obtain ⟨t, heos, hrest, heng⟩ := transfers_eosDec_of_partial hp enabled hcnt
    have hpos : part.length ≠ 0 := by bv_omega
    exact ⟨t, heos, hrest, heng ▸ h.empty, fun hzero => absurd hzero hpos, fun _ => heng ▸ ⟨rfl, hlen⟩⟩

theorem transfers_decodeSchedule {v : Variant} {xs : List Byte} {s : State} (hv : s.eng.variant = v)
    (h : s.eng.Collecting []) (hp : s.env.pending = decodeSchedule v xs) :
    ∃ t, Transfers 1 xs (decodeStream v xs) s t ∧ t.env.pending = [] ∧ t.eng.obuf = [] ∧
      (xs.length % v.width = 0 → t.eng.phase = .done ∧ t.eng.errK = 0#2) ∧
      (xs.length % v.width ≠ 0 → t.eng.phase = .err ∧ t.eng.errK.toNat = xs.length % v.width) := by
  induction xs using unitwise_induction (v := v) generalizing s with
  | short xs hshort =>
    rw [decodeSchedule_of_short hshort] at hp
    obtain ⟨s₁, hpartial, hp₁, h₁⟩ := transfers_partialUnit h (hv ▸ hshort) hp
    obtain ⟨t, heos, hend⟩ := transfers_eosDec h₁ hp₁
    rw [decodeStream_of_short hshort, Nat.mod_eq_of_lt hshort]
    exact ⟨t, by simpa using hpartial.trans heos, hend⟩
  | unit u r hu ih =>
    subst hu
    rw [decodeSchedule_bytes_append] at hp
    obtain ⟨s₁, hunit, hp₁, h₁⟩ := transfers_unit h hv.symm hp
    obtain ⟨t, htail, hend⟩ := ih (hunit.variant.trans hv) h₁ hp₁
    have hmod : (u.bytes ++ r).length % u.variant.width = r.length % u.variant.width := by
      rw [List.length_append, u.bytes_length, Nat.add_mod_left]
    rw [decodeStream_bytes_append, hmod]
    exact ⟨t, hunit.trans htail, hend⟩

/-! ### From START -/

/-- The state in which a START leaves the machine, its own stimulus used up (R120). -/
def State.opened (s : State) (v : Variant) (d : Dir) (rest : List Stimulus) : State :=
  ((s.setPending rest).setEng (s.eng.openSession v d)).forgetSession

/-- START and then a whole session: what the record and the configuration are at its end. -/
theorem run_session {v : Variant} {d : Dir} {rest : List Stimulus} {xs ys : List Byte} {s t : State}
    (hp : s.env.pending = offerStart v d :: rest) (h : Transfers 1 xs ys (s.opened v d rest) t) :
    Sys2Proof.core.run (1 + (xs.length + 1 + ys.length)) s = .next t ∧ t.eng.variant = v ∧ t.eng.dir = d ∧
      t.env.accepted = xs ∧ t.env.output = ys ∧ t.env.sink = s.env.sink ++ ys := by
  refine ⟨?_, h.variant, h.dir, h.accepted, h.output, h.sink⟩
  rw [Nat.add_comm xs.length 1]
  exact run_append (run_one (M := core) (step_offerStart hp)) h.run

/-- Settles O57: START opens the session between pairs, and the schedule's every step moves a byte or ends the stream. -/
theorem encodeSessionEnds : Obligations.EncodeSessionEnds := by
  intro v xs s hp
  obtain ⟨t, hsession, hpending, hphase, hobuf⟩ :=
    transfers_encodeSchedule (s := s.opened v .enc (encodeSchedule v xs)) rfl rfl
  obtain ⟨hrun, hvariant, hdir, haccepted, houtput, hsink⟩ := run_session hp hsession
  rw [encodeStream_length] at hrun
  exact ⟨t, hrun, hpending, hphase, hobuf, hvariant, hdir, haccepted, houtput, hsink⟩

/-- Settles O58, as O57: START opens the session between units. -/
theorem decodeSessionEnds : Obligations.DecodeSessionEnds := by
  intro v xs s hp
  obtain ⟨t, hsession, hpending, hobuf, hend⟩ :=
    transfers_decodeSchedule (v := v) (s := s.opened v .dec (decodeSchedule v xs)) rfl ⟨rfl, rfl, rfl, rfl, rfl⟩ rfl
  obtain ⟨hrun, hvariant, hdir, haccepted, houtput, hsink⟩ := run_session hp hsession
  exact ⟨t, hrun, hpending, hobuf, hvariant, hdir, haccepted, houtput, hsink, hend⟩

end Sys2Proof.Machine

namespace Sys2Proof.Machine

/-! ### RESET, START, NOP and the STATUS read, in every state (R120, R121, R123, R124) -/

theorem exec_start (v : Variant) (d : Dir) (s : State) :
    exec (.start v d) s = .next (s.setEng (s.eng.openSession v d)).forgetSession := rfl

theorem exec_reset (x : BitVec 3) (s : State) : exec (.reset x) s = .next (s.setEng s.eng.toReset).forgetSession := rfl

theorem exec_nop (x : BitVec 2) (s : State) : exec (.nop x) s = .next s := rfl

theorem exec_statusRead (s : State) : exec .statusRead s = .next (s.recordStatus s.eng.status) := rfl

theorem decode_ctrl (c : Selector) (w : BitVec 4) : decode c (.ctrl w) = .ok (decodeCtrl w) := rfl

theorem Engine.openSession_status (e : Engine) (v : Variant) (d : Dir) :
    (e.openSession v d).status = 0#4 ++ 0b00#2 ++ 0b00#2 ++ 0b0#1 ++ 0b000#3 ++ d.toBit ++ v.toBit ++ 0b01#2 := rfl

/-- Settles O27: nothing that START writes depends on the engine it finds. -/
theorem startOpensASession : Obligations.StartOpensASession := by
  intro s v d
  refine ⟨?_, _, exec_start v d s, rfl, s.eng.openSession_status v d⟩
  rw [decode_ctrl, decodeCtrl_startWord]

/-- Settles O28: RESET leaves the engine of O34. -/
theorem resetRestoresEveryElement : Obligations.ResetRestoresEveryElement := by
  intro s x
  obtain ⟨hengine, hstatus, hports⟩ := stateAfterReset
  refine ⟨?_, _, exec_reset x s, hengine, hstatus, fun p => (hports p).1⟩
  rw [decode_ctrl, decodeCtrl_resetWord]

/-- Settles O29. -/
theorem nopChangesNothing : Obligations.NopChangesNothing := by
  intro s x
  refine ⟨?_, exec_nop x s⟩
  rw [decode_ctrl, decodeCtrl_nopWord]

/-- Settles O30: the word that is recorded is R20's, field by field. -/
theorem statusReadReturnsTheWord : Obligations.StatusReadReturnsTheWord := exec_statusRead

end Sys2Proof.Machine

namespace Sys2Proof.Machine

/-! ### The sticky error (R133) -/

/-- Only EOS_DEC writes ERR_K (R10), and outside RUN it is disabled. -/
theorem exec_errK_of_not_run {i : Instr} {s t : State} (hrun : s.eng.phase ≠ .run) (h : exec i s = .next t)
    (hstart : ∀ v d, i ≠ .start v d) (hreset : ∀ x, i ≠ .reset x) : t.eng.errK = s.eng.errK := by
  obtain ⟨-, -, -, -, -, -, -, -, hwriter⟩ := elementsChangedOnlyByTheirWriters i s t h hstart hreset
  by_contra hne
  obtain ⟨x, rfl⟩ := hwriter hne
  rw [exec_of_not_accepting rfl (.inl hrun)] at h
  cases h
  exact hne rfl

/-- Settles O53: ERR is a phase of O54, in which no operation but START and RESET writes ERR_K; those two write PHASE
and ERR_K whatever the engine was. -/
theorem errorLeftOnlyByStartOrReset : Obligations.ErrorLeftOnlyByStartOrReset := by
  intro i s t herr h
  constructor
  · intro hstart hreset
    obtain ⟨hphase, haccepted, -⟩ := noInputAfterEndOfStream i s t (.inr herr) h hstart hreset
    have hrun : s.eng.phase ≠ .run := by simp [herr]
    exact ⟨hphase.trans herr, exec_errK_of_not_run hrun h hstart hreset, haccepted⟩
  · rintro (⟨v, d, rfl⟩ | ⟨x, rfl⟩)
    · rw [exec_start] at h
      cases h
      simp
    · rw [exec_reset] at h
      cases h
      simp

end Sys2Proof.Machine

namespace Sys2Proof.Machine

/-! ### Runs that wait for the host (R109, R161; log entry 19) -/

/-- A step in which the host serves neither side of the engine. -/
structure StandsStill (x : Stimulus) (s t : State) : Prop where
  notOffered : s.waitsForInput x = true → x.portIn.inValid = false
  notTaken : s.waitsForConsumer x = true → x.portIn.outReady = false
  eng : t.eng = s.eng
  accepted : t.env.accepted = s.env.accepted
  output : t.env.output = s.env.output
  sink : t.env.sink = s.env.sink

/-- Nothing moves where the input waited for is not offered and the output waited for is not taken (R109). -/
theorem standsStill_of_unserved {s t : State} {x : Stimulus} (h : step (s.setPending [x]) = .next t)
    (hrst : x.portIn.rst = false) (hstart : x.portIn.start = false)
    (hin : s.waitsForInput x = true → x.portIn.inValid = false)
    (hout : s.waitsForConsumer x = true → x.portIn.outReady = false) : StandsStill x s t := by
  obtain ⟨hwait, hvalid, -⟩ | ⟨hwait, hready, -⟩ | ⟨-, -, heng, haccepted, houtput, hsink⟩ :=
    step_noControl_cases h hrst hstart
  · exact nomatch hvalid.symm.trans (hin hwait)
  · exact nomatch hready.symm.trans (hout hwait)
  · exact ⟨hin, hout, heng, haccepted, houtput, hsink⟩

/-- An engine that no step changes where it stands as at step `k` stands so for ever. -/
theorem run_eng_eq {run : Nat → State} {k : Nat}
    (still : ∀ j, k ≤ j → (run j).eng = (run k).eng → (run (j + 1)).eng = (run j).eng) :
    ∀ j, k ≤ j → (run j).eng = (run k).eng := by
  intro j hj
  induction j, hj using Nat.le_induction with
  | base => rfl
  | succ j hj ih => exact (still j hj ih).trans ih

/-- Standing still for ever in a session that has not ended is not termination (R113). -/
theorem not_terminates_of_eng_eq {run : Nat → State} {k : Nat} (still : ∀ j, k ≤ j → (run j).eng = (run k).eng)
    (hopen : (run k).ended = false) : ¬Terminates run := by
  rintro ⟨n, hn⟩
  have hended := hn (max n k) (le_max_left n k)
  rw [State.ended, still _ (le_max_right n k)] at hended
  exact nomatch hopen.symm.trans hended

/-- Settles O60: with OBUF nonempty the engine waits for the consumer only, and in RUN with OBUF empty for the producer
only. -/
theorem unfairHostsAreWaitedForForEver : Obligations.UnfairHostsAreWaitedForForEver := by
  intro host run k hrun hcontrol
  refine ⟨fun hobuf hready => ?_, fun hphase hempty hvalid => ?_⟩
  · have still : ∀ j, k ≤ j → (run j).eng = (run k).eng := run_eng_eq fun j hj heng => by
      obtain ⟨hrst, hstart⟩ := hcontrol j
      refine (standsStill_of_unserved (hrun j) hrst hstart (fun hwait => ?_) fun _ => hready j hj).eng
      obtain ⟨⟨-, hempty⟩, -⟩ := (State.waitsForInput_iff _ _).mp hwait
      exact absurd (heng ▸ hempty) hobuf
    refine ⟨still, not_terminates_of_eng_eq still ?_⟩
    simp [State.ended, hobuf]
  · have still : ∀ j, k ≤ j → (run j).eng = (run k).eng := run_eng_eq fun j hj heng => by
      obtain ⟨hrst, hstart⟩ := hcontrol j
      refine (standsStill_of_unserved (hrun j) hrst hstart (fun _ => hvalid j hj) fun hwait => ?_).eng
      obtain ⟨hne, -⟩ := (State.waitsForConsumer_iff _ _).mp hwait
      exact absurd (heng ▸ hempty) hne
    refine ⟨still, not_terminates_of_eng_eq still ?_⟩
    simp [State.ended, hphase]

/-! ### One transfer of a session (R100 to R108) -/

/-- The row of an accepted data byte, by DIR and by HOLD_V or ACC_CNT (R100). -/
theorem decodePush_rows {c : Selector} {b : Byte} {i : Instr} (h : decodePush c b = .ok i) :
    (i = .pushEncFirst b ∧ c.dir = .enc ∧ c.holdV = false) ∨ (i = .pushEncSecond b ∧ c.dir = .enc ∧ c.holdV = true) ∨
    (i = .pushDecPartial b ∧ c.dir = .dec ∧ c.accCnt.toNat + 1 < c.variant.width) ∨
    (i = .pushDecLast b ∧ c.dir = .dec ∧ c.accCnt.toNat + 1 = c.variant.width) := by
  unfold decodePush at h
  split at h
  case h_1 hdir =>
    cases h
    cases hhold : c.holdV <;> simp [hdir]
  case h_2 hdir =>
    split at h
    case isTrue hlt => cases h; simp [hdir, hlt]
    case isFalse =>
      split at h
      case isTrue hlast => cases h; simp [hdir, hlast]
      case isFalse => cases h

theorem exec_decodePush {s t : State} {b : Byte} {i : Instr} (hacc : s.eng.accepting = true)
    (hi : decodePush s.eng.selector b = .ok i) (h : exec i s = .next t) :
    t.env = { s.env with accepted := s.env.accepted ++ [b] } ∧ t.eng.phase = .run := by
  obtain ⟨hrun, hempty⟩ := s.eng.accepting_iff.mp hacc
  obtain ⟨hfirst, hsecond, hpartial, hlast⟩ := acceptedBytesAreRecorded s b hrun hempty
  have recorded : ∃ u, exec i s = .next u ∧ u.env = { s.env with accepted := s.env.accepted ++ [b] } := by
    obtain ⟨rfl, hdir, hrow⟩ | ⟨rfl, hdir, hrow⟩ | ⟨rfl, hdir, hrow⟩ | ⟨rfl, hdir, hrow⟩ := decodePush_rows hi
    · exact hfirst hdir hrow
    · exact hsecond hdir hrow
    · exact hpartial hdir hrow
    · exact hlast hdir hrow
  obtain ⟨u, hu, henv⟩ := recorded
  cases hu.symm.trans h
  refine ⟨henv, hrun ▸ ?_⟩
  obtain ⟨rfl, -⟩ | ⟨rfl, -⟩ | ⟨rfl, -⟩ | ⟨rfl, -⟩ := decodePush_rows hi <;>
    exact exec_phase_eq h nofun nofun nofun nofun

theorem exec_decodeEos {s t : State} {x : Byte} (hacc : s.eng.accepting = true)
    (h : exec (decodeEos s.eng.selector x) s = .next t) :
    t.env = s.env ∧ (t.eng.phase = .done ∨ t.eng.phase = .err) := by
  obtain ⟨hrun, hempty⟩ := s.eng.accepting_iff.mp hacc
  unfold decodeEos at h
  split at h
  case h_1 hdir =>
    have enabled := s.eng.canEosEnc_iff.mpr ⟨hrun, hempty, hdir⟩
    refine ⟨exec_eosEnc_env h, .inl ?_⟩
    rw [exec_eng h, Engine.next_eosEnc_phase, if_pos enabled]
  case h_2 hdir =>
    have enabled := s.eng.canEosDec_iff.mpr ⟨hrun, hempty, hdir⟩
    refine ⟨exec_eosDec_env h, ?_⟩
    rw [exec_eng h, Engine.next_eosDec_of_enabled x enabled]
    split
    · exact .inl rfl
    · exact .inr rfl

/-- A row of an IN word leaves CFG (R122). -/
theorem exec_inRow_config {i : Instr} {w : BitVec 9} {s t : State} (hi : encode i = .inp w) (h : exec i s = .next t) :
    t.eng.variant = s.eng.variant ∧ t.eng.dir = s.eng.dir :=
  configurationFixedWithinASession i s t h (fun _ _ hs => nomatch hs ▸ hi) fun _ hr => nomatch hr ▸ hi

/-- The step that accepts a data byte. -/
theorem step_transfers_data {s t : State} {x : Stimulus} (h : step (s.setPending [x]) = .next t)
    (hwait : s.waitsForInput x = true) (heos : x.portIn.inEos = false) {i : Instr}
    (hi : decodeIn s.eng.selector x.portIn.inWord = .ok i) (hexec : exec i (s.setPending []) = .next t) :
    Transfers 0 [x.portIn.inData] [] (s.setPending [x]) t ∧ t.eng.phase = .run := by
  obtain ⟨hacc, -⟩ := (inReady_iff _ _).mp hwait
  obtain ⟨-, -, hrow⟩ := decodeIn_isRowOf hi
  obtain ⟨hvariant, hdir⟩ := exec_inRow_config hrow hexec
  rw [decodeIn_of_data _ heos] at hi
  obtain ⟨henv, hphase⟩ := exec_decodePush (s := s.setPending []) hacc hi hexec
  refine ⟨⟨run_one (M := core) h, ?_, ?_, ?_, hvariant, hdir⟩, hphase⟩
  all_goals simp [henv]

/-- The step that accepts EOS. -/
theorem step_transfers_eos {s t : State} {x : Stimulus} (h : step (s.setPending [x]) = .next t)
    (hwait : s.waitsForInput x = true) (heos : x.portIn.inEos = true) {i : Instr}
    (hi : decodeIn s.eng.selector x.portIn.inWord = .ok i) (hexec : exec i (s.setPending []) = .next t) :
    Transfers 1 [] [] (s.setPending [x]) t ∧ (t.eng.phase = .done ∨ t.eng.phase = .err) := by
  obtain ⟨hacc, -⟩ := (inReady_iff _ _).mp hwait
  obtain ⟨-, -, hrow⟩ := decodeIn_isRowOf hi
  obtain ⟨hvariant, hdir⟩ := exec_inRow_config hrow hexec
  rw [decodeIn_of_eos _ heos] at hi
  cases hi
  obtain ⟨henv, hphase⟩ := exec_decodeEos (s := s.setPending []) hacc hexec
  refine ⟨⟨run_one (M := core) h, ?_, ?_, ?_, hvariant, hdir⟩, hphase⟩
  all_goals simp [henv]

/-- The step in which the consumer takes a byte. -/
theorem step_transfers_pop {s t : State} {x : Stimulus} (h : step (s.setPending [x]) = .next t)
    (hwait : s.waitsForConsumer x = true) (hexec : execPop (s.setPending []) = .next t) :
    ∃ b, s.eng.obuf = b :: t.eng.obuf ∧ Transfers 0 [] [b] (s.setPending [x]) t ∧ t.eng.phase = s.eng.phase := by
  obtain ⟨b, rest, hobuf, rfl⟩ | ⟨hempty, -⟩ := execPop_cases hexec
  · rw [State.setPending_eng] at hobuf
    exact ⟨b, by simp [hobuf], ⟨run_one (M := core) h, by simp, rfl, rfl, rfl, rfl⟩, rfl⟩
  · obtain ⟨hne, -⟩ := (State.waitsForConsumer_iff _ _).mp hwait
    exact absurd hempty hne

/-! ### A session against a fair host (R113, R117, R161) -/

/-- In RUN some beginning of the input has been accepted, and after EOS all of it. -/
abbrev State.Progress (input : List Byte) (s : State) : Prop :=
  (s.eng.phase = .run ∧ s.env.accepted <+: input) ∨
  ((s.eng.phase = .done ∨ s.eng.phase = .err) ∧ s.env.accepted = input)

/-- What holds at every step after START v, d of a session over `input`, where the consumer had the bytes `before`. -/
structure State.InSession (v : Variant) (d : Dir) (input before : List Byte) (s : State) : Prop where
  sound : s.eng.Sound
  faithful : s.Faithful
  variant : s.eng.variant = v
  dir : s.eng.dir = d
  sink : s.env.sink = before ++ s.env.output
  progress : s.Progress input

/-- A bound on the steps of R117 still to come: an accepted byte or EOS is one step, and brings at most 4 bytes into
OBUF (R18), each of which is one more. -/
def State.remaining (input : List Byte) (s : State) : Nat :=
  s.eng.obuf.length + if s.eng.phase = .run then 5 * (input.length + 1 - s.env.accepted.length) else 0

theorem State.inSession_start (s : State) (v : Variant) (d : Dir) (input : List Byte) :
    (s.setEng (s.eng.openSession v d)).forgetSession.InSession v d input s.env.sink where
  sound := s.eng.sound_openSession v d
  faithful := s.faithful_openSession v d
  variant := rfl
  dir := rfl
  sink := (List.append_nil _).symm
  progress := .inl ⟨rfl, List.nil_prefix⟩

theorem Engine.Sound.obuf_length_le {e : Engine} (h : e.Sound) : e.obuf.length ≤ 4 := by
  obtain ⟨-, -, -, -, ⟨henc, hdec⟩, -⟩ := h
  cases hdir : e.dir
  case enc => exact (henc hdir).trans e.variant.width_le
  case dec => exact (hdec hdir).trans (by decide)

section
variable {v : Variant} {d : Dir} {input before : List Byte} {s t : State} {x : Stimulus}

theorem State.InSession.sound_step (hs : s.InSession v d input before) (h : step (s.setPending [x]) = .next t) :
    t.eng.Sound :=
  soundEngineKeptByStep (s.setPending [x]) t hs.sound h

theorem State.InSession.faithful_step (hs : s.InSession v d input before) (h : step (s.setPending [x]) = .next t) :
    t.Faithful :=
  faithfulStreamKeptByStep (s.setPending [x]) t hs.sound hs.faithful h

/-- A transfer keeps all of the session's invariant but how far the session is. -/
theorem State.InSession.transfers {ends : Nat} {inp out : List Byte} (hs : s.InSession v d input before)
    (h : step (s.setPending [x]) = .next t) (htransfer : Transfers ends inp out (s.setPending [x]) t)
    (progress : t.Progress input) : t.InSession v d input before where
  sound := hs.sound_step h
  faithful := hs.faithful_step h
  variant := htransfer.variant.trans hs.variant
  dir := htransfer.dir.trans hs.dir
  sink := by
    rw [htransfer.sink, htransfer.output, ← List.append_assoc]
    exact congrArg (· ++ out) hs.sink
  progress := progress

theorem State.InSession.still_step (hs : s.InSession v d input before) (h : step (s.setPending [x]) = .next t)
    (hstill : StandsStill x s t) : t.InSession v d input before where
  sound := hs.sound_step h
  faithful := hs.faithful_step h
  variant := hstill.eng ▸ hs.variant
  dir := hstill.eng ▸ hs.dir
  sink := by rw [hstill.sink, hstill.output, hs.sink]
  progress := by rw [State.Progress, hstill.eng, hstill.accepted]; exact hs.progress

/-- In RUN the bytes accepted begin the input. -/
theorem State.InSession.accepted_prefix (hs : s.InSession v d input before) (hrun : s.eng.phase = .run) :
    s.env.accepted <+: input := by
  obtain ⟨-, hprefix⟩ | ⟨hphase, -⟩ := hs.progress
  · exact hprefix
  · simp [hrun] at hphase

theorem State.InSession.data_step (hs : s.InSession v d input before) (h : step (s.setPending [x]) = .next t)
    (hwait : s.waitsForInput x = true) {b : Byte} (hnext : input[s.env.accepted.length]? = some b)
    (htransfer : Transfers 0 [b] [] (s.setPending [x]) t) (hphase : t.eng.phase = .run) :
    t.InSession v d input before ∧ t.remaining input < s.remaining input := by
  obtain ⟨⟨hrun, -⟩, -⟩ := (State.waitsForInput_iff s x).mp hwait
  have haccepted : t.env.accepted = s.env.accepted ++ [b] := htransfer.accepted
  obtain ⟨hlt, rfl⟩ := List.getElem?_eq_some_iff.mp hnext
  have hprefix : t.env.accepted <+: input := haccepted ▸ List.concat_get_prefix (hs.accepted_prefix hrun) hlt
  refine ⟨hs.transfers h htransfer (.inl ⟨hphase, hprefix⟩), ?_⟩
  have hobuf := (hs.sound_step h).obuf_length_le
  have hcount : t.env.accepted.length = s.env.accepted.length + 1 := by simp [haccepted]
  rw [State.remaining, State.remaining, if_pos hrun, if_pos hphase]
  omega

theorem State.InSession.eos_step (hs : s.InSession v d input before) (h : step (s.setPending [x]) = .next t)
    (hwait : s.waitsForInput x = true) (hnext : input[s.env.accepted.length]? = none)
    (htransfer : Transfers 1 [] [] (s.setPending [x]) t) (hphase : t.eng.phase = .done ∨ t.eng.phase = .err) :
    t.InSession v d input before ∧ t.remaining input < s.remaining input := by
  obtain ⟨⟨hrun, -⟩, -⟩ := (State.waitsForInput_iff s x).mp hwait
  have hprefix := hs.accepted_prefix hrun
  have hall : s.env.accepted = input := hprefix.eq_of_length_le (List.getElem?_eq_none_iff.mp hnext)
  have haccepted : t.env.accepted = input := (htransfer.accepted.trans (List.append_nil _)).trans hall
  refine ⟨hs.transfers h htransfer (.inr ⟨hphase, haccepted⟩), ?_⟩
  have hobuf := (hs.sound_step h).obuf_length_le
  have hended : t.eng.phase ≠ .run := by obtain hdone | herr := hphase <;> simp [*]
  have hle := hprefix.length_le
  rw [State.remaining, State.remaining, if_pos hrun, if_neg hended]
  omega

theorem State.InSession.pop_step (hs : s.InSession v d input before) (h : step (s.setPending [x]) = .next t) {b : Byte}
    (hobuf : s.eng.obuf = b :: t.eng.obuf) (htransfer : Transfers 0 [] [b] (s.setPending [x]) t)
    (hphase : t.eng.phase = s.eng.phase) :
    t.InSession v d input before ∧ t.remaining input < s.remaining input := by
  have haccepted : t.env.accepted = s.env.accepted := htransfer.accepted.trans (List.append_nil _)
  refine ⟨hs.transfers h htransfer (by rw [State.Progress, hphase, haccepted]; exact hs.progress), ?_⟩
  rw [State.remaining, State.remaining, hphase, haccepted, hobuf, List.length_cons]
  omega

end

/-- The data byte that a producer over `input` sends is the next one. -/
theorem next_of_data {input : List Byte} {host : Nat → Stimulus} {run : Nat → State} {k : Nat}
    (hsends : ProducerSends input host run) (hwait : (run k).waitsForInput (host k) = true)
    (hvalid : (host k).portIn.inValid = true) (heos : (host k).portIn.inEos = false) :
    input[(run k).env.accepted.length]? = some (host k).portIn.inData := by
  have hoffer := hsends k hwait hvalid
  cases hnext : input[(run k).env.accepted.length]? with
  | some b => simp only [hnext] at hoffer; rw [hoffer.2]
  | none => simp [hnext, heos] at hoffer

/-- EOS is sent after the last byte only. -/
theorem next_of_eos {input : List Byte} {host : Nat → Stimulus} {run : Nat → State} {k : Nat}
    (hsends : ProducerSends input host run) (hwait : (run k).waitsForInput (host k) = true)
    (hvalid : (host k).portIn.inValid = true) (heos : (host k).portIn.inEos = true) :
    input[(run k).env.accepted.length]? = none := by
  have hoffer := hsends k hwait hvalid
  cases hnext : input[(run k).env.accepted.length]? with
  | some b => simp [hnext, heos] at hoffer
  | none => rfl

section
variable {v : Variant} {d : Dir} {input before : List Byte} {host : Nat → Stimulus} {run : Nat → State}

/-- A step of a session brings its end nearer, or it stands still. -/
theorem State.InSession.next {k : Nat} (hs : (run k).InSession v d input before) (hrun : IsRun host run)
    (hfair : FairHost input host run) :
    (run (k + 1)).InSession v d input before ∧
      ((run (k + 1)).remaining input < (run k).remaining input ∨ StandsStill (host k) (run k) (run (k + 1))) := by
  obtain ⟨hrst, hstart⟩ := hfair.noControl k
  obtain ⟨hwait, hvalid, i, hi, hexec⟩ | ⟨hwait, -, hexec⟩ | ⟨hin, hout, -⟩ :=
    step_noControl_cases (hrun k) hrst hstart
  · cases heos : (host k).portIn.inEos
    case false =>
      obtain ⟨htransfer, hphase⟩ := step_transfers_data (hrun k) hwait heos hi hexec
      exact (hs.data_step (hrun k) hwait (next_of_data hfair.sends hwait hvalid heos) htransfer hphase).imp_right .inl
    case true =>
      obtain ⟨htransfer, hphase⟩ := step_transfers_eos (hrun k) hwait heos hi hexec
      exact (hs.eos_step (hrun k) hwait (next_of_eos hfair.sends hwait hvalid heos) htransfer hphase).imp_right .inl
  · obtain ⟨b, hobuf, htransfer, hphase⟩ := step_transfers_pop (hrun k) hwait hexec
    exact (hs.pop_step (hrun k) hobuf htransfer hphase).imp_right .inl
  · have hstill := standsStill_of_unserved (hrun k) hrst hstart hin hout
    exact ⟨hs.still_step (hrun k) hstill, .inr hstill⟩

theorem StandsStill.remaining_eq {s t : State} {x : Stimulus} (h : StandsStill x s t) (input : List Byte) :
    t.remaining input = s.remaining input := by
  rw [State.remaining, State.remaining, h.eng, h.accepted]

/-- A run whose every step brings the end nearer or stands still stands still from some step on. -/
theorem exists_standsStill
    (hnext : ∀ k, (run (k + 1)).remaining input < (run k).remaining input ∨ StandsStill (host k) (run k) (run (k + 1))) :
    ∃ n, ∀ j, n ≤ j → StandsStill (host j) (run j) (run (j + 1)) := by
  have hanti : Antitone fun k => (run k).remaining input := antitone_nat_of_succ_le fun k =>
    (hnext k).elim Nat.le_of_lt fun hstill => (hstill.remaining_eq input).le
  obtain ⟨n, hn⟩ := WellFoundedGT.monotone_chain_condition ⟨_, hanti.dual_right⟩
  refine ⟨n, fun j hj => (hnext j).resolve_left fun hlt => hlt.ne ?_⟩
  exact OrderDual.toDual.injective ((hn (j + 1) (by omega)).symm.trans (hn j hj))

/-- A session that stands still against a fair host has ended: else it would wait for one of the host's two sides. -/
theorem State.InSession.ended_of_standsStill {n : Nat} (hs : (run n).InSession v d input before)
    (hfair : FairHost input host run) (hstill : ∀ j, n ≤ j → StandsStill (host j) (run j) (run (j + 1))) :
    ∀ m, n ≤ m → (run m).ended = true := by
  have heng : ∀ j, n ≤ j → (run j).eng = (run n).eng := run_eng_eq fun j hj _ => (hstill j hj).eng
  have hempty : (run n).eng.obuf = [] := by
    by_contra hne
    obtain ⟨j, hj, hserved⟩ := hfair.consumer n
    have hwait := (State.waitsForConsumer_iff _ _).mpr ⟨(heng j hj).symm ▸ hne, hfair.noControl j⟩
    exact nomatch (hserved hwait).symm.trans ((hstill j hj).notTaken hwait)
  have hphase : (run n).eng.phase ≠ .run := by
    intro hphase
    obtain ⟨j, hj, hserved⟩ := hfair.producer n
    have hready : (run j).eng.phase = .run ∧ (run j).eng.obuf = [] := by rw [heng j hj]; exact ⟨hphase, hempty⟩
    have hwait := (State.waitsForInput_iff _ _).mpr ⟨hready, hfair.noControl j⟩
    exact nomatch (hserved hwait).symm.trans ((hstill j hj).notOffered hwait)
  obtain ⟨hrunning, -⟩ | ⟨hended, -⟩ := hs.progress
  · exact absurd hrunning hphase
  · intro m hm
    rw [State.ended_iff, heng m hm]
    exact ⟨hended, hempty⟩

end

/-- What an ended session has put out, and how it has ended (R111 to R114). -/
theorem State.InSession.of_ended {v : Variant} {d : Dir} {input before : List Byte} {s : State}
    (hs : s.InSession v d input before) (hended : s.ended = true) :
    s.env.accepted = input ∧ s.env.output = sessionOutput v d input ∧
      (d = .enc ∨ input.length % v.width = 0 → s.eng.phase = .done ∧ s.eng.errK = 0#2) ∧
      (d = .dec → input.length % v.width ≠ 0 → s.eng.phase = .err ∧ s.eng.errK.toNat = input.length % v.width) := by
  obtain ⟨hsound, hfaithful, rfl, rfl, -, hprogress⟩ := hs
  obtain ⟨hphase, -⟩ := s.ended_iff.mp hended
  have haccepted : s.env.accepted = input := by
    obtain ⟨hrun, -⟩ | ⟨-, haccepted⟩ := hprogress
    · simp [hrun] at hphase
    · exact haccepted
  subst haccepted
  cases hdir : s.eng.dir
  case enc =>
    obtain ⟨hdone, houtput, -⟩ := endedEncodeSessionOutput s hsound hfaithful hended hdir
    obtain ⟨-, -, -, ⟨-, hclear⟩, -⟩ := hsound
    exact ⟨rfl, houtput, fun _ => ⟨hdone, hclear (by simp [hdone])⟩, nofun⟩
  case dec =>
    obtain ⟨houtput, -, hwhole, hcut⟩ := endedDecodeSessionOutput s hsound hfaithful hended hdir
    exact ⟨rfl, houtput, fun h => hwhole (h.resolve_left nofun), fun _ => hcut⟩

/-- Settles O59: what remains of a session never grows, so from some step on it stands still, which it does only where
it has ended. -/
theorem fairSessionsEnd : Obligations.FairSessionsEnd := by
  intro v d input s host run hstart hrun hfair
  rw [exec_start] at hstart
  have hsession (k : Nat) : (run k).InSession v d input s.env.sink := by
    induction k with
    | zero => exact Host.Outcome.next.inj hstart ▸ s.inSession_start v d input
    | succ k ih => exact (ih.next hrun hfair).1
  obtain ⟨n, hstill⟩ := exists_standsStill fun k => ((hsession k).next hrun hfair).2
  refine ⟨⟨n, (hsession n).ended_of_standsStill hfair hstill⟩, fun m hended => ?_⟩
  have hm := hsession m
  obtain ⟨haccepted, houtput, hend⟩ := hm.of_ended hended
  exact ⟨hm.variant, hm.dir, haccepted, houtput, houtput ▸ hm.sink, hend⟩

end Sys2Proof.Machine
